-- ==== Sys2Proof/Word.lean ====
section
/-! DEFINITION. The word types of the block: a 32-bit operation word (30_encoding.md R90) and a byte
(00_scope.md R10). -/

namespace Sys2Proof

/-- One operation word: "Every operation is one 32-bit operation word" (R90). -/
abbrev Word := BitVec 32

/-- "A byte is 8 bits" (R10). -/
abbrev Byte := BitVec 8

end Sys2Proof
end

