-- ==== Sys2Proof/Syntax.lean ====
section
/-! DEFINITION. The operations of the block, one constructor for each row of spec/opcode_table.json, and the assembly
language of 30_encoding.md R98 and R99. -/

namespace Sys2Proof

/-- One legal operation with its operand fields (30_encoding.md R92 to R94). A field has exactly the bits its format
gives it, so every term of this type is a legal operation and every legal word is one term. -/
inductive Instr where
  /-- CMD (40_framer.md R125): frame the command byte b. -/
  | cmd (b : Byte)
  /-- DATA (R128): frame the data byte b. -/
  | data (b : Byte)
  /-- DATAB (R130): frame len data bytes from PBUF[addr]. -/
  | datab (len addr : BitVec 14)
  /-- WAIT (41_busy_sync.md R160): await the busy line inactive, or time out. -/
  | wait
  /-- RSTP (40_framer.md R140): drive the reset double pulse. -/
  | rstp
  /-- PACK.FULL (42_packer.md R195): pack a panel-sized image, rotating it if it is transposed. -/
  | packFull (w h : BitVec 13)
  /-- PACK.SUB (R200): pack a sub-image at the panel's row stride. -/
  | packSub (w h : BitVec 13)
  /-- FILL (R205): fill the full buffer with the byte b. -/
  | fill (b : Byte)
deriving DecidableEq, Repr

/-- One line of the assembly language (30_encoding.md R98). Its operands are plain numbers: whether they fit their
fields is what an assembler checks (`AsmLine.wellFormed`). -/
inductive AsmLine where
  | cmd (b : Nat)
  | data (b : Nat)
  | datab (addr len : Nat)
  | wait
  | rstp
  | packFull (w h : Nat)
  | packSub (w h : Nat)
  | fill (b : Nat)
  /-- `.word n`: the 32-bit word n as written. -/
  | word (n : Nat)
deriving DecidableEq, Repr

/-- The assembler's pseudo-operations (R99). -/
inductive PseudoOp where
  | send (c : Nat) (ds : List Nat)
  | window (xs ys xe ye : Nat)
  | writeRam (len : Nat)
  | refreshFull
  | refreshPart
  | sleep
deriving DecidableEq, Repr

end Sys2Proof
end

