-- ==== Sys2Proof/WellFormed.lean ====
section
/-! DEFINITION. When an assembly line is well formed: "An assembler rejects an operand that does not fit its field
(b > 255, len or addr > 16383, w or h > 8191)" (30_encoding.md R98). A term of `Instr` needs no check: its fields have
exactly the bits of their formats. -/

namespace Sys2Proof

/-- The assembler's operand check of R98. -/
def AsmLine.wellFormed : AsmLine → Bool
  | .cmd b => b ≤ 255
  | .data b => b ≤ 255
  | .datab addr len => addr ≤ 16383 && len ≤ 16383
  | .wait => true
  | .rstp => true
  | .packFull w h => w ≤ 8191 && h ≤ 8191
  | .packSub w h => w ≤ 8191 && h ≤ 8191
  | .fill b => b ≤ 255
  | .word n => n < 4294967296

end Sys2Proof
end

