-- ==== Sys2Proof/Decode.lean ====
section
/-! DEFINITION. The fields of an operation word, its decoding (30_encoding.md R96), its encoding (R92, R98), the
assembler (R98, R99) and the host's view of the decoder through the numbering of spec/opcode_table.json. -/

namespace Sys2Proof

/-- OP = w[31:28] (R90). -/
def fieldOp (w : Word) : BitVec 4 := w.extractLsb' 28 4

/-- BYTE = w[7:0] (R94). -/
def fieldByte (w : Word) : Byte := w.extractLsb' 0 8

/-- LEN = w[27:14] (R94). -/
def fieldLen (w : Word) : BitVec 14 := w.extractLsb' 14 14

/-- ADDR = w[13:0] (R94). -/
def fieldAddr (w : Word) : BitVec 14 := w.extractLsb' 0 14

/-- MODE = w[26] (R94). -/
def fieldMode (w : Word) : BitVec 1 := w.extractLsb' 26 1

/-- W = w[25:13] (R94). -/
def fieldW (w : Word) : BitVec 13 := w.extractLsb' 13 13

/-- H = w[12:0] (R94). -/
def fieldH (w : Word) : BitVec 13 := w.extractLsb' 0 13

/-- The must-be-zero bits 27:8 of format B (R92, R95). -/
def fieldZeroB (w : Word) : BitVec 20 := w.extractLsb' 8 20

/-- The must-be-zero bits 27:0 of format Z (R92, R95). -/
def fieldZeroZ (w : Word) : BitVec 28 := w.extractLsb' 0 28

/-- The must-be-zero bit 27 of format P (R92, R95). -/
def fieldZeroP (w : Word) : BitVec 1 := w.extractLsb' 27 1

/-- Decoding, total on every 32-bit word (R96); `none` is Illegal (R95). -/
def decode (w : Word) : Option Instr :=
  if fieldOp w = 1 then
    if fieldZeroB w = 0 then some (.cmd (fieldByte w)) else none
  else if fieldOp w = 2 then
    if fieldZeroB w = 0 then some (.data (fieldByte w)) else none
  else if fieldOp w = 3 then
    some (.datab (fieldLen w) (fieldAddr w))
  else if fieldOp w = 4 then
    if fieldZeroZ w = 0 then some .wait else none
  else if fieldOp w = 5 then
    if fieldZeroZ w = 0 then some .rstp else none
  else if fieldOp w = 6 then
    if fieldZeroP w = 0 then
      if fieldMode w = 0 then some (.packFull (fieldW w) (fieldH w)) else some (.packSub (fieldW w) (fieldH w))
    else none
  else if fieldOp w = 7 then
    if fieldZeroB w = 0 then some (.fill (fieldByte w)) else none
  else none

/-- The word of an operation, written from the formats of R92. -/
def encode : Instr → Word
  | .cmd b => (1#4 ++ 0#20 ++ b : BitVec 32)
  | .data b => (2#4 ++ 0#20 ++ b : BitVec 32)
  | .datab len addr => (3#4 ++ len ++ addr : BitVec 32)
  | .wait => (4#4 ++ 0#28 : BitVec 32)
  | .rstp => (5#4 ++ 0#28 : BitVec 32)
  | .packFull w h => (6#4 ++ 0#1 ++ 0#1 ++ w ++ h : BitVec 32)
  | .packSub w h => (6#4 ++ 0#1 ++ 1#1 ++ w ++ h : BitVec 32)
  | .fill b => (7#4 ++ 0#20 ++ b : BitVec 32)

/-- The `match` value of the operation's row in spec/opcode_table.json. -/
def tableMatch : Instr → Word
  | .cmd _ => 0x10000000
  | .data _ => 0x20000000
  | .datab _ _ => 0x30000000
  | .wait => 0x40000000
  | .rstp => 0x50000000
  | .packFull _ _ => 0x60000000
  | .packSub _ _ => 0x64000000
  | .fill _ => 0x70000000

/-- The `mask` value of the operation's row in spec/opcode_table.json. -/
def tableMask : Instr → Word
  | .cmd _ => 0xFFFFFF00
  | .data _ => 0xFFFFFF00
  | .datab _ _ => 0xF0000000
  | .wait => 0xFFFFFFFF
  | .rstp => 0xFFFFFFFF
  | .packFull _ _ => 0xFC000000
  | .packSub _ _ => 0xFC000000
  | .fill _ => 0xFFFFFF00

/-- The instruction the decoder reads from an operation whose bits are `w`, bit 0 the least significant. An operation
is one 32-bit word (R90, R97); the bits above `nbits` are 0, and a number that does not fit 32 bits is no operation. -/
def decodeTableWord (nbits w : Nat) : Option Instr :=
  if nbits ≤ 32 ∧ w < 2 ^ nbits then decode (BitVec.ofNat 32 w) else none

/-- The word of a well-formed assembly line (R98); `none` where the assembler rejects an operand. -/
def AsmLine.assemble (l : AsmLine) : Option Word :=
  if l.wellFormed then
    some (match l with
      | .cmd b => encode (.cmd (BitVec.ofNat 8 b))
      | .data b => encode (.data (BitVec.ofNat 8 b))
      | .datab addr len => encode (.datab (BitVec.ofNat 14 len) (BitVec.ofNat 14 addr))
      | .wait => encode .wait
      | .rstp => encode .rstp
      | .packFull w h => encode (.packFull (BitVec.ofNat 13 w) (BitVec.ofNat 13 h))
      | .packSub w h => encode (.packSub (BitVec.ofNat 13 w) (BitVec.ofNat 13 h))
      | .fill b => encode (.fill (BitVec.ofNat 8 b))
      | .word n => BitVec.ofNat 32 n)
  else none

/-- `SEND c, d1, ..., dn` (R99): the command frame, then one data frame for each payload byte (43_panel_protocol.md
R236). -/
def sendLines (c : Nat) (ds : List Nat) : List AsmLine := .cmd c :: ds.map .data

/-- The expansion of a pseudo-operation (R99). A 16-bit payload goes low byte first (20_memory.md R66 (c)). -/
def PseudoOp.expand : PseudoOp → List AsmLine
  | .send c ds => sendLines c ds
  | .window xs ys xe ye =>
      sendLines 0x44 [xs >>> 3, xe >>> 3] ++ sendLines 0x45 [ys &&& 0xFF, ys >>> 8, ye &&& 0xFF, ye >>> 8]
  | .writeRam len => [.cmd 0x24, .datab 0 len]
  | .refreshFull => sendLines 0x22 [0xF7] ++ [.cmd 0x20, .wait]
  | .refreshPart => sendLines 0x22 [0xC4] ++ [.cmd 0x20, .wait]
  | .sleep => sendLines 0x10 [0x01]

/-- The words of a list of assembly lines; `none` if one is rejected. -/
def assembleAll : List AsmLine → Option (List Word)
  | [] => some []
  | l :: ls =>
    match l.assemble, assembleAll ls with
    | some w, some ws => some (w :: ws)
    | _, _ => none

end Sys2Proof
end

