-- ==== Sys2Proof/Config.lean ====
section
/-! DEFINITION. What is fixed between resets (the configuration record CFG, 10_state.md R21), what is fixed for the
hardware (the build parameters, 00_scope.md R7), the free values of the environment, and configuration EX of
95_test_vectors.md section 1. -/

namespace Sys2Proof

/-- A pin level (00_scope.md R11). -/
inductive Level where
  | low
  | high
deriving DecidableEq, Repr

/-- `not(l)` of R11: the other level. -/
def Level.other : Level → Level
  | .low => .high
  | .high => .low

/-- POLARITY of 10_state.md R21: the meaning of a packed bit. -/
inductive Polarity where
  | darkIsOne
  | lightIsOne
deriving DecidableEq, Repr

/-- The configuration record of 10_state.md R21, field for field. It is plain data of the state, so a statement about
every state ranges over every configuration. -/
structure Cfg where
  /-- PW, panel width in pixels. -/
  pw : BitVec 13
  /-- PH, panel height in pixels. -/
  ph : BitVec 13
  /-- POLL_TICKS, the busy poll interval. -/
  pollTicks : BitVec 32
  /-- TIMEOUT_TICKS, the busy timeout. -/
  timeoutTicks : BitVec 32
  /-- RST_HOLD_TICKS, the reset hold. -/
  rstHoldTicks : BitVec 32
  /-- RST_DELAY_TICKS, the reset settle time. -/
  rstDelayTicks : BitVec 32
  /-- NOTIFY_EN: a busy-state-change callback is configured. -/
  notifyEn : Bool
  /-- DC_CMD_LEVEL: the DC level that means "command". -/
  dcCmdLevel : Level
  /-- CS_ACTIVE_LEVEL: the CS level that means "active". -/
  csActiveLevel : Level
  /-- RST_RUN_LEVEL: the RST level the panel runs at (40_framer.md R141). -/
  rstRunLevel : Level
  /-- BUSY_ACTIVE_LEVEL: the BUSY level that means busy. -/
  busyActiveLevel : Level
  /-- POLARITY. -/
  polarity : Polarity
  /-- CH16: colour channels of 16 bits (true) or 8 bits (false). -/
  ch16 : Bool
  /-- BUS_HZ: opaque, read by no rule. -/
  busHz : Nat
  /-- BUS_MODE: opaque, read by no rule. -/
  busMode : Nat
deriving DecidableEq, Repr

/-- The build parameters of 00_scope.md R7 (92_eei_decisions.md D18): fixed for the hardware, changed by nothing. -/
structure Build where
  /-- PBUF_SIZE, bytes of the pixel buffer memory (at most 16384: 20_memory.md R60). -/
  pbufSize : BitVec 15
  /-- SRC_W_MAX, columns of the source grid. -/
  srcWMax : BitVec 13
  /-- SRC_H_MAX, rows of the source grid. -/
  srcHMax : BitVec 13
  /-- TICK_NS: opaque, no rule depends on it (R8). -/
  tickNs : Nat
deriving DecidableEq, Repr

/-- Configuration EX of 95_test_vectors.md section 1. DESIGN CHOICE (logs 3 and 4): the specification gives no value of
its own to any of these fields; EX is its default for examples. -/
def Cfg.ex : Cfg :=
  { pw := 122, ph := 250, pollTicks := 10, timeoutTicks := 35, rstHoldTicks := 20, rstDelayTicks := 2,
    notifyEn := true, dcCmdLevel := .low, csActiveLevel := .low, rstRunLevel := .high, busyActiveLevel := .high,
    polarity := .lightIsOne, ch16 := false, busHz := 0, busMode := 0 }

/-- The build parameters of configuration EX (logs 3 and 4). -/
def Build.ex : Build := { pbufSize := 16384, srcWMax := 250, srcHMax := 250, tickNs := 0 }

/-- Free value (93_implementation_defined.md row 9): does the transport request number n return ok? No body: nothing
can be proved of it. -/
opaque Config.transportOk : Nat → Bool

/-- Free value (row 10): how many ticks beyond the first does transport request number n take? -/
opaque Config.transportExtra : Nat → Nat

/-- Free value (row 12): how many bytes of a Transmit that is not answered ok reach the panel? -/
opaque Config.transportPrefix : Nat → Nat

/-- Free value (row 8): is the busy line High at sample number n? -/
opaque Config.busyHigh : Nat → Bool

/-- Free value (row 16): how many ticks beyond the first does packer operation number n take? -/
opaque Config.packExtra : Nat → Nat

end Sys2Proof
end

