-- ==== Sys2Proof/Machine/State.lean ====
section
/-! DEFINITION. The state of the block (10_state.md R20 to R44), the environment the model steps beside it (00_scope.md
R9, R13), the reasons a step can stop, and the state right after reset. -/

namespace Sys2Proof.Machine

/-- OPSTATE (R27). -/
inductive OpState where
  | idle
  | busy
deriving DecidableEq, Repr

/-- RESULT codes (R34). Codes 6 and 7 "are never produced", so the type does not have them. -/
inductive Result where
  | none
  | ok
  | timeout
  | transportFailure
  | invalidInput
  | illegalOp
deriving DecidableEq, Repr

/-- FST, the framer's state (R28). -/
inductive FramerState where
  | fIdle
  | fDc
  | fCsa
  | fTx
  | fCsd
  | rSet1
  | rHold1
  | rSet2
  | rDelay
  | rSet3
  | rHold2
deriving DecidableEq, Repr

/-- SST, the synchronizer's state (R29). -/
inductive SyncState where
  | sIdle
  | sPoll
deriving DecidableEq, Repr

/-- PST, the packer's state (R30). -/
inductive PackerState where
  | pIdle
  | pRun
deriving DecidableEq, Repr

/-- A pin shadow (R31, 00_scope.md R11). -/
inductive Shadow where
  | low
  | high
  | unknown
deriving DecidableEq, Repr

/-- The output pins of the block (00_scope.md R12). -/
inductive Pin where
  | dc
  | cs
  | rst
deriving DecidableEq, Repr

/-- A transport request that may fail (00_scope.md R12, 60_exceptions.md R296). -/
inductive Request where
  | setPin (p : Pin) (l : Level)
  | transmit (bs : List Byte)
deriving DecidableEq, Repr

/-- How a request ended: `ok` or `err` (R12); `lost`: a reset abandoned the operation before the request returned
(70_reset_and_hazards.md R312), so no answer was seen. -/
inductive Reply where
  | ok
  | err
  | lost
deriving DecidableEq, Repr

/-- An event of the observation (00_scope.md R13). -/
inductive Event where
  /-- `SetPin(p, l) -> ok|err` or `Transmit(bs) -> ok|err`, with the tick in which it returned. -/
  | request (r : Request) (reply : Reply) (returned : Nat)
  /-- `ReadPin(BUSY) = l`. -/
  | readPin (l : Level)
  /-- `Notify(true)` or `Notify(false)`. -/
  | notify (b : Bool)
  /-- `Done(op, code)`; the operation is given by its word. -/
  | done (op : Word) (code : Result)
deriving DecidableEq, Repr

/-- An event with its stamp: the tick in which the block issued it (R13). -/
structure Stamped where
  tick : Nat
  event : Event
deriving DecidableEq, Repr

/-- The environment's draws for one transport request (R122, R123): whether it returns ok, how many ticks beyond the
first it takes, and how many bytes of a Transmit that is not answered ok reach the panel. -/
structure Answer where
  ok : Bool
  extra : Nat
  delivered : Nat
deriving DecidableEq, Repr

/-- A request in flight: issued in tick `issued`, it returns in the `left`-th tick from the current one on (R122). -/
structure Outstanding where
  req : Request
  issued : Nat
  left : Nat
  answer : Answer
deriving DecidableEq, Repr

/-- A host memory-port transaction (20_memory.md R64). Addresses are plain numbers, because the port also answers
addresses outside the memories (R65). -/
inductive MemTxn where
  | pbWr (a : Nat) (v : Byte)
  | pbRd (a : Nat)
  | srcWr (x y : Nat) (d : Bool)
  | srcWrRgb (x y : Nat) (r g b : BitVec 16)
  | srcRd (x y : Nat)
deriving DecidableEq, Repr

/-- What the memory port returned: the tick, read data (none for a write) and the error flag MERR (R64, R65). -/
structure MemReply where
  tick : Nat
  data : Option Byte
  merr : Bool
deriving DecidableEq, Repr

/-- What the register port returned (R32). -/
structure RegReply where
  tick : Nat
  ra : BitVec 4
  value : BitVec 32
deriving DecidableEq, Repr

/-- A memory: (address, value) pairs with strictly rising addresses. A listed cell is a written one (the written-mark of
R42); an unlisted cell has no value, and reading it is the model fault of 20_memory.md R68. The pixel buffer is a list of
`Host.Cell`. -/
abbrev Memory (α : Type) := List (Nat × α)

/-- The environment of the block, plain data: time, what the host will present and when, the draws already fixed, and
what has been observed. Every field is the model's own (logs 2, 5, 9, 13, 17). -/
structure Env where
  /-- `t_now`: the index of the current tick (00_scope.md R12). -/
  now : Nat
  /-- Operation words the host presents, each from the given tick on, in order (30_encoding.md R91). -/
  ops : List (Nat × Word)
  /-- Memory transactions the host presents, each from the given tick on, in order (20_memory.md R64). -/
  txns : List (Nat × MemTxn)
  /-- Register reads the host makes, each from the given tick on, in order (10_state.md R32). -/
  regReads : List (Nat × BitVec 4)
  /-- Resets of the block, each with its tick and its configuration input (70_reset_and_hazards.md R310). -/
  resets : List (Nat × Cfg)
  /-- Draws for the coming transport requests; past its end they are free values of `Config`. -/
  answers : List Answer
  /-- Draws for the coming BUSY samples (41_busy_sync.md R171); past its end they are free values. -/
  busyLevels : List Level
  /-- Draws for the coming packer durations, in ticks beyond the first (42_packer.md R191); then free values. -/
  packTimes : List Nat
  /-- How many draws were taken as free values: the next free value's index. -/
  draws : Nat
  /-- The transport request in flight (20_memory.md R78). -/
  outstanding : Option Outstanding
  /-- The packer operation in progress finishes in the `packLeft`-th tick from the current one on (R191). -/
  packLeft : Nat
  /-- The observation, oldest event first (00_scope.md R13). -/
  trace : List Stamped
  /-- The memory port's answers, oldest first. -/
  memReplies : List MemReply
  /-- The register port's answers, oldest first. -/
  regReplies : List RegReply
  /-- The bytes that reached the panel over the bus, oldest first (40_framer.md R123). -/
  reached : List Byte
deriving DecidableEq, Repr

/-- The state of the block at the start of a tick: everything 10_state.md R20 names, the model-only state of R42 and R43,
the build parameters of 00_scope.md R7, and the environment. -/
structure State where
  /-- The build parameters (R7); nothing writes them. -/
  build : Build
  /-- CFG (R21, R22). -/
  cfg : Cfg
  /-- OPSTATE (R27). -/
  opState : OpState
  /-- CUR_OP (R27). -/
  curOp : Word
  /-- RESULT (R33, R34). -/
  result : Result
  /-- LASTOP (R33). -/
  lastOp : BitVec 4
  /-- FST (R28). -/
  framer : FramerState
  /-- FCNT (R28, 40_framer.md R142). -/
  fcnt : BitVec 32
  /-- SST (R29). -/
  sync : SyncState
  /-- ELAPSED (R29): unbounded. -/
  elapsed : Nat
  /-- SAMPLES (R29). -/
  samples : BitVec 32
  /-- NOTIFY (R29). -/
  notify : Bool
  /-- PST (R30). -/
  packer : PackerState
  /-- DC_SH (R31). -/
  dcSh : Shadow
  /-- CS_SH (R31). -/
  csSh : Shadow
  /-- RST_SH (R31). -/
  rstSh : Shadow
  /-- PBUF with its written-marks (20_memory.md R60, R42). -/
  pbuf : Memory Byte
  /-- SRC with its written-marks (20_memory.md R62, R42); the key of cell (x, y) is `srcKey x y`. -/
  src : Memory Bool
  /-- FAULTED (R43). -/
  faulted : Bool
  /-- The environment (00_scope.md R9). -/
  env : Env
deriving DecidableEq, Repr

/-- Why a step stops with a fault. Each carries the state the fault leaves: the state at the faulting access with
`FAULTED` set (10_state.md R43), at the end of its tick (log 7). Both are safe: the model stops where the hardware goes on
with a value the specification does not give (20_memory.md R68). A state whose FAULTED is set has steps like any other
(R43: "never cleared by any later step, including a reset"). -/
inductive Fault where
  /-- UNINIT on PBUF (R68): raised by DATAB, and by the host port's PB_RD, on a byte with no written-mark. Safe. -/
  | uninitPbuf (a : Nat) (left : State)
  /-- UNINIT on SRC (R68): raised by PACK.FULL and PACK.SUB, and by the host port's SRC_RD, on a cell with no
  written-mark. Safe. -/
  | uninitSrc (x y : Nat) (left : State)
deriving DecidableEq, Repr

/-- The state a fault leaves. -/
def Fault.left : Fault → State
  | .uninitPbuf _ l => l
  | .uninitSrc _ _ l => l

/-- Why a step has no meaning. -/
inductive Refusal where
  /-- An instruction whose meaning is not written; raised by no instruction of this model. Safe. -/
  | notModelled (mnemonic : String)
  /-- A configuration that breaks 10_state.md R23: "A model given an illegal configuration refuses it". Raised by every
  step and every operation under such a configuration. Safe. -/
  | illegalConfig
  /-- `exec` asked to run an operation while another is in progress: the port accepts no word (30_encoding.md R91).
  Raised by `exec` only in a BUSY state; `step` never asks it. Safe. -/
  | portBusy
deriving DecidableEq, Repr

/-- The environment with nothing scheduled, nothing drawn and nothing observed (log 5). -/
def Env.start : Env :=
  { now := 0, ops := [], txns := [], regReads := [], resets := [], answers := [], busyLevels := [], packTimes := [],
    draws := 0, outstanding := none, packLeft := 0, trace := [], memReplies := [], regReplies := [], reached := [] }

/-- The state right after the first reset of a block of build `b` with the configuration input `c` (10_state.md R44). -/
def State.afterReset (b : Build) (c : Cfg) : State :=
  { build := b, cfg := c, opState := .idle, curOp := 0x00000000, result := .none, lastOp := 0,
    framer := .fIdle, fcnt := 0, sync := .sIdle, elapsed := 0, samples := 0, notify := false, packer := .pIdle,
    dcSh := .unknown, csSh := .unknown, rstSh := .unknown, pbuf := [], src := [], faulted := false, env := Env.start }

/-- The machine right after reset (R44), with configuration EX on its configuration input (log 3). -/
def State.reset : State := State.afterReset Build.ex Cfg.ex

end Sys2Proof.Machine
end

