-- ==== Sys2Proof/Machine/Memory.lean ====
section
/-! DEFINITION. The operations over the two memories PBUF and SRC (20_memory.md R60 to R69). A memory lists exactly its
written cells, in strictly rising address order. -/

namespace Sys2Proof.Machine

/-- The canonical form: addresses strictly rising. (An unlisted cell reads as no value, so no entry can equal what an
unlisted cell reads as.) -/
abbrev Memory.wf {α : Type} (m : Memory α) : Prop := m.Pairwise (fun a b => a.1 < b.1)

/-- The value of a cell, or `none` where its written-mark is false (10_state.md R42). -/
def Memory.read {α : Type} : Memory α → Nat → Option α
  | [], _ => none
  | (k, v) :: m, a => if k = a then some v else Memory.read m a

/-- Write one cell: "A memory write changes only the byte or cell written" (20_memory.md R69). -/
def Memory.write {α : Type} : Memory α → Nat → α → Memory α
  | [], a, v => [(a, v)]
  | (k, u) :: m, a, v =>
    if a < k then (a, v) :: (k, u) :: m
    else if a = k then (a, v) :: m
    else (k, u) :: Memory.write m a v

/-- Write all of the cells `0 .. n-1` at once (20_memory.md R73): cell i gets `f i`; every other cell stays. -/
def Memory.setLow {α : Type} (m : Memory α) (n : Nat) (f : Nat → α) : Memory α :=
  (List.range n).map (fun i => (i, f i)) ++ m.filter (fun c => decide (n ≤ c.1))

/-- `MemRead(PBUF, a, n)` (00_scope.md R12): the n cells from `a` on; `none` if one of them is unwritten. -/
def Memory.readRange {α : Type} (m : Memory α) (a : Nat) : Nat → Option (List α)
  | 0 => some []
  | n + 1 =>
    match m.read a, Memory.readRange m (a + 1) n with
    | some v, some vs => some (v :: vs)
    | _, _ => none

/-- The first unwritten cell among the n cells from `a` on. -/
def Memory.firstUnwritten {α : Type} (m : Memory α) (a : Nat) : Nat → Option Nat
  | 0 => none
  | n + 1 =>
    match m.read a with
    | none => some a
    | some _ => Memory.firstUnwritten m (a + 1) n

/-- The key of source cell (x, y): the 26-bit number {y, x} (20_memory.md R62: a coordinate fits in 13 bits). -/
def srcKey (x y : Nat) : Nat := y * 8192 + x

/-- The first unwritten cell of row y among its n cells from column x on. -/
def firstUnwrittenInRow (m : Memory Bool) (y x : Nat) : Nat → Option (Nat × Nat)
  | 0 => none
  | n + 1 =>
    match m.read (srcKey x y) with
    | none => some (x, y)
    | some _ => firstUnwrittenInRow m y (x + 1) n

/-- The first unwritten cell, in the order in which a pack reads them (42_packer.md R195), of the h rows from y on, each
of w cells. -/
def firstUnwrittenCell (m : Memory Bool) (w y : Nat) : Nat → Option (Nat × Nat)
  | 0 => none
  | h + 1 =>
    match firstUnwrittenInRow m y 0 w with
    | some c => some c
    | none => firstUnwrittenCell m w (y + 1) h

end Sys2Proof.Machine
end

