-- ==== Sys2Proof/Machine/Operands.lean ====
section
/-! DEFINITION. The arithmetic of configurations and operands: legality (10_state.md R23), stride and length (R24,
42_packer.md R192), the operand checks of DATAB, PACK.FULL and PACK.SUB (R131, R196, R202), bit placement, polarity and
rotation (R193, R194, R197), and classification (R210). -/

namespace Sys2Proof.Machine

/-- `STRIDE = (PW + 7) >> 3` (10_state.md R24). -/
def stride (c : Cfg) : Nat := (c.pw.toNat + 7) >>> 3

/-- `L = STRIDE × PH`, the length of a full buffer (42_packer.md R192). -/
def fullLen (c : Cfg) : Nat := stride c * c.ph.toNat

/-- A configuration is legal for a build (10_state.md R23), the build within the bound of 20_memory.md R60 (log 18). -/
def legalCfg (b : Build) (c : Cfg) : Bool :=
  decide (1 ≤ c.pw.toNat) && decide (1 ≤ c.ph.toNat) && decide (1 ≤ c.pollTicks.toNat)
    && decide (fullLen c ≤ b.pbufSize.toNat) && decide (b.pbufSize.toNat ≤ 16384)
    && decide (max c.pw.toNat c.ph.toNat ≤ b.srcWMax.toNat) && decide (max c.pw.toNat c.ph.toNat ≤ b.srcHMax.toNat)

/-- DATAB's check (40_framer.md R131): an empty range, or one that leaves the buffer memory. -/
def databInvalid (b : Build) (len addr : BitVec 14) : Bool :=
  decide (len.toNat = 0) || decide (b.pbufSize.toNat < addr.toNat + len.toNat)

/-- How PACK.FULL lays the image out. -/
inductive Orientation where
  | straight
  | rotated
deriving DecidableEq, Repr

/-- PACK.FULL's size check (42_packer.md R196): the panel's size, or its transpose; the first test wins. -/
def fullOrientation (c : Cfg) (w h : BitVec 13) : Option Orientation :=
  if w = c.pw ∧ h = c.ph then some .straight
  else if w = c.ph ∧ h = c.pw then some .rotated
  else none

/-- PACK.SUB's check (42_packer.md R202). -/
def subInvalid (b : Build) (w h : BitVec 13) : Bool :=
  decide (b.srcWMax.toNat < w.toNat) || decide (b.srcHMax.toNat < h.toNat)

/-- The source pixel that lands on panel pixel (dx, dy) when a W × H source is packed; `none` if there is none. A rotated
source pixel (x, y) goes to (PW - 1 - y, x) (42_packer.md R197), so (dx, dy) comes from (dy, PW - 1 - dx) (R199). -/
def sourceOf (c : Cfg) (o : Orientation) (w h dx dy : Nat) : Option (Nat × Nat) :=
  if dx < c.pw.toNat ∧ dy < c.ph.toNat then
    match o with
    | .straight => if dx < w ∧ dy < h then some (dx, dy) else none
    | .rotated => some (dy, c.pw.toNat - 1 - dx)
  else none

/-- `bitval(d)` (42_packer.md R193). -/
def bitval (p : Polarity) (dark : Bool) : Bool :=
  match p with
  | .darkIsOne => dark
  | .lightIsOne => !dark

/-- The byte whose pixel k (k = 0 leftmost) is `f k`: pixel k is bit 7 - k (42_packer.md R194). -/
def byteOfPixels (f : Nat → Bool) : Byte :=
  BitVec.ofBoolListBE [f 0, f 1, f 2, f 3, f 4, f 5, f 6, f 7]

/-- The bit a pack writes for panel pixel (dx, dy): 0 where no source pixel lands (zero-initialized, R192, R198), else
`bitval` of the source cell. An unwritten source cell never gets this far: the pack has faulted (20_memory.md R68). -/
def packedPixel (c : Cfg) (o : Orientation) (w h : Nat) (src : Memory Bool) (dx dy : Nat) : Bool :=
  match sourceOf c o w h dx dy with
  | none => false
  | some (x, y) =>
    match src.read (srcKey x y) with
    | none => false
    | some d => bitval c.polarity d

/-- Byte i of the packed buffer: pixels `8 (i mod STRIDE) + k` of row `i / STRIDE` (42_packer.md R194). -/
def packedByte (c : Cfg) (o : Orientation) (w h : Nat) (src : Memory Bool) (i : Nat) : Byte :=
  byteOfPixels (fun k => packedPixel c o w h src (8 * (i % stride c) + k) (i / stride c))

/-- What the packer operation of word `op` writes to byte i of the buffer: FILL's byte (42_packer.md R205), or the packed
byte of PACK.FULL (R195) or PACK.SUB (R200). -/
def packerByte (c : Cfg) (op : Word) (src : Memory Bool) (i : Nat) : Byte :=
  if fieldOp op = 7 then fieldByte op
  else if fieldMode op = 1 then packedByte c .straight (fieldW op).toNat (fieldH op).toNat src i
  else
    packedByte c ((fullOrientation c (fieldW op) (fieldH op)).getD .straight) (fieldW op).toNat (fieldH op).toNat src i

/-- The number a colour channel of the memory port stands for: its low CH_BITS bits (42_packer.md R210, log 11). -/
def channel (c : Cfg) (v : BitVec 16) : Nat :=
  if c.ch16 then v.toNat else (v.extractLsb' 0 8).toNat

/-- `M = 2^CH_BITS - 1` (R210). -/
def channelMax (c : Cfg) : Nat := if c.ch16 then 65535 else 255

/-- `classify(r, g, b)`: dark when the average is at or below the mid-point, compared exactly (R210). -/
def classify (c : Cfg) (r g b : BitVec 16) : Bool :=
  decide (2 * (channel c r + channel c g + channel c b) ≤ 3 * channelMax c)

/-- `LIGHT_BYTE` (42_packer.md R206). -/
def lightByte (p : Polarity) : Byte :=
  match p with
  | .darkIsOne => 0x00
  | .lightIsOne => 0xFF

/-- `DARK_BYTE = 0xFF - LIGHT_BYTE` (R206). -/
def darkByte (p : Polarity) : Byte := 0xFF - lightByte p

end Sys2Proof.Machine
end

