-- ==== Sys2Proof/Machine/Flags.lean ====
section
/-! DEFINITION. What software and the host can see of the state: the read-only register port (10_state.md R32 to R41) and
the ready outputs of the operation port and the memory port (30_encoding.md R91, 20_memory.md R64). -/

namespace Sys2Proof.Machine

/-- "The bit encoding of a level in a register is Low = 0, High = 1" (00_scope.md R11). -/
def levelBit : Level → BitVec 1
  | .low => 0
  | .high => 1

/-- A Boolean field of a register. -/
def boolBit (b : Bool) : BitVec 1 := if b then 1 else 0

/-- POLARITY in MODECFG: 0 = DARK_IS_ONE, 1 = LIGHT_IS_ONE (10_state.md R21, R37). -/
def polarityBit : Polarity → BitVec 1
  | .darkIsOne => 0
  | .lightIsOne => 1

/-- The RESULT code (10_state.md R34). -/
def resultCode : Result → BitVec 3
  | .none => 0
  | .ok => 1
  | .timeout => 2
  | .transportFailure => 3
  | .invalidInput => 4
  | .illegalOp => 5

/-- A shadow in PINSH: Low = 0, High = 1, Unknown = 2 (R38). -/
def shadowCode : Shadow → BitVec 2
  | .low => 0
  | .high => 1
  | .unknown => 2

/-- The shadow of a pin that was set to a level (R31). -/
def shadowOf : Level → Shadow
  | .low => .low
  | .high => .high

/-- `OPBUSY`: 1 while OPSTATE = BUSY (R33). -/
def opBusyBit : OpState → BitVec 1
  | .idle => 0
  | .busy => 1

/-- STATUS (R33): OPBUSY bit 0, RESULT 3:1, NOTIFY 4, LASTOP 11:8, the rest 0. -/
def statusReg (s : State) : BitVec 32 :=
  (0#20 ++ s.lastOp ++ 0#3 ++ boolBit s.notify ++ resultCode s.result ++ opBusyBit s.opState : BitVec 32)

/-- PANEL (R36): PW 12:0, PH 28:16. -/
def panelReg (s : State) : BitVec 32 := (0#3 ++ s.cfg.ph ++ 0#3 ++ s.cfg.pw : BitVec 32)

/-- MODECFG (R37). -/
def modeCfgReg (s : State) : BitVec 32 :=
  (0#25 ++ boolBit s.cfg.ch16 ++ boolBit s.cfg.notifyEn ++ polarityBit s.cfg.polarity ++ levelBit s.cfg.busyActiveLevel
    ++ levelBit s.cfg.rstRunLevel ++ levelBit s.cfg.csActiveLevel ++ levelBit s.cfg.dcCmdLevel : BitVec 32)

/-- PINSH (R38): DC_SH 1:0, CS_SH 3:2, RST_SH 5:4. -/
def pinShReg (s : State) : BitVec 32 :=
  (0#26 ++ shadowCode s.rstSh ++ shadowCode s.csSh ++ shadowCode s.dcSh : BitVec 32)

/-- The register port: the value at address `ra` (R32). Addresses 0xC to 0xF are reserved and read 0. -/
def readReg (s : State) (ra : BitVec 4) : BitVec 32 :=
  match ra.toNat with
  | 0x0 => statusReg s
  | 0x1 => s.cfg.pollTicks
  | 0x2 => s.cfg.timeoutTicks
  | 0x3 => s.cfg.rstHoldTicks
  | 0x4 => s.cfg.rstDelayTicks
  | 0x5 => panelReg s
  | 0x6 => modeCfgReg s
  | 0x7 => pinShReg s
  | 0x8 => BitVec.ofNat 32 s.elapsed
  | 0x9 => s.samples
  | 0xA => (0#17 ++ s.build.pbufSize : BitVec 32)
  | 0xB => (0#3 ++ s.build.srcHMax ++ 0#3 ++ s.build.srcWMax : BitVec 32)
  | _ => 0

/-- `op_ready`: 1 exactly when OPSTATE = IDLE (30_encoding.md R91). -/
def opReady (s : State) : Bool := decide (s.opState = .idle)

end Sys2Proof.Machine
end

