-- ==== Sys2Proof/Machine/Ops.lean ====
section
/-! DEFINITION. The shared operations: the environment's draws and the observation, the register port, transport requests
and their answers, accepting an operation, finishing it with a result, the model fault and the block's reset. This block
takes no exceptions (60_exceptions.md R290 to R292): what plays that part is `finish`, the one operation that ends an
operation with a result, and `raiseUninitPbuf`/`raiseUninitSrc`, which set FAULTED. -/

namespace Sys2Proof.Machine

/-- Append an event, stamped with tick `t`, to the observation (00_scope.md R13). -/
def logAt (t : Nat) (e : Event) (s : State) : State :=
  { s with env := { s.env with trace := s.env.trace ++ [{ tick := t, event := e }] } }

/-- Append an event of the current tick to the observation. -/
def log (e : Event) (s : State) : State := logAt s.env.now e s

/-- The draw for the next transport request: the next fixed one, else a free value (R122, R296; log 2). -/
def nextAnswer (e : Env) : Answer :=
  match e.answers with
  | a :: _ => a
  | [] =>
    { ok := Config.transportOk e.draws, extra := Config.transportExtra e.draws,
      delivered := Config.transportPrefix e.draws }

/-- The environment after that draw. -/
def takeAnswer (e : Env) : Env :=
  match e.answers with
  | _ :: rest => { e with answers := rest }
  | [] => { e with draws := e.draws + 1 }

/-- The level BUSY reads at the next sample (41_busy_sync.md R171; log 2). -/
def nextBusy (e : Env) : Level :=
  match e.busyLevels with
  | l :: _ => l
  | [] => if Config.busyHigh e.draws then .high else .low

/-- The environment after that sample. -/
def takeBusy (e : Env) : Env :=
  match e.busyLevels with
  | _ :: rest => { e with busyLevels := rest }
  | [] => { e with draws := e.draws + 1 }

/-- How many ticks beyond the first the next packer operation takes (42_packer.md R191; log 2). -/
def nextPackTime (e : Env) : Nat :=
  match e.packTimes with
  | n :: _ => n
  | [] => Config.packExtra e.draws

/-- The environment after that draw. -/
def takePackTime (e : Env) : Env :=
  match e.packTimes with
  | _ :: rest => { e with packTimes := rest }
  | [] => { e with draws := e.draws + 1 }

/-- The register port's part of a tick: a read that is due is answered with the value the state holds at the start of
the tick, and has no other effect (10_state.md R32). One read a tick (log 13). -/
def readPort (s : State) : State :=
  match s.env.regReads with
  | [] => s
  | (t, ra) :: rest =>
    if t ≤ s.env.now then
      { s with env := { s.env with
          regReads := rest,
          regReplies := s.env.regReplies ++ [{ tick := s.env.now, ra := ra, value := readReg s ra }] } }
    else s

/-- The end of a tick: time moves on by one. -/
def endTick (s : State) : State := { s with env := { s.env with now := s.env.now + 1 } }

/-- The shadow of pin `p` becomes `v` (10_state.md R31). -/
def setShadow (p : Pin) (v : Shadow) (s : State) : State :=
  match p with
  | .dc => { s with dcSh := v }
  | .cs => { s with csSh := v }
  | .rst => { s with rstSh := v }

/-- Issue a transport request in the current tick and enter framer state `st` (40_framer.md R121, R122). It returns at
least one tick later. -/
def issue (st : FramerState) (r : Request) (s : State) : State :=
  { s with
    framer := st,
    env := { takeAnswer s.env with
      outstanding := some { req := r, issued := s.env.now, left := (nextAnswer s.env).extra + 1,
                            answer := nextAnswer s.env } } }

/-- The reply of an answer. -/
def replyOf (a : Answer) : Reply := if a.ok then .ok else .err

/-- The bytes of a request that reach the panel: all of a Transmit that returns ok, a free prefix of one that does not
(40_framer.md R123, 92_eei_decisions.md D41), none of a SetPin. -/
def deliveredBytes (r : Request) (reply : Reply) (a : Answer) : List Byte :=
  match r, reply with
  | .setPin _ _, _ => []
  | .transmit bs, .ok => bs
  | .transmit bs, _ => bs.take a.delivered

/-- The outstanding request returns in the current tick: it is observed, a SetPin's shadow becomes its level on ok and
Unknown on err (10_state.md R31), and nothing is outstanding any more. -/
def takeReply (o : Outstanding) (s : State) : State :=
  let s1 := logAt o.issued (.request o.req (replyOf o.answer) s.env.now) s
  let s2 :=
    match o.req with
    | .setPin p l => setShadow p (if o.answer.ok then shadowOf l else .unknown) s1
    | .transmit _ => s1
  { s2 with env := { s2.env with
      outstanding := none,
      reached := s2.env.reached ++ deliveredBytes o.req (replyOf o.answer) o.answer } }

/-- The acceptance of a word (30_encoding.md R91): CUR_OP and LASTOP latch it, RESULT is NONE, OPSTATE is BUSY. -/
def accept (w : Word) (s : State) : State :=
  { s with curOp := w, lastOp := fieldOp w, result := .none, opState := .busy }

/-- The finish of the operation in progress with a result (60_exceptions.md R280): RESULT is written, the three engines
are idle, `done` is observed, and OPSTATE is IDLE from the next tick. -/
def finish (code : Result) (s : State) : State :=
  log (.done s.curOp code)
    { s with result := code, opState := .idle, framer := .fIdle, sync := .sIdle, packer := .pIdle }

/-- The state a model fault leaves: FAULTED is set, nothing else changes, and the tick ends (10_state.md R43, log 7). -/
def faultedState (s : State) : State := endTick { s with faulted := true }

/-- The model fault UNINIT on byte `a` of PBUF: FAULTED is set and the operation has no result (20_memory.md R68,
60_exceptions.md R287). -/
def raiseUninitPbuf (a : Nat) (s : State) : Fault := .uninitPbuf a (faultedState s)

/-- The model fault UNINIT on cell (x, y) of SRC. -/
def raiseUninitSrc (x y : Nat) (s : State) : Fault := .uninitSrc x y (faultedState s)

/-- What becomes of a request in flight when a reset abandons its operation: it is observed without an answer, and what
it does at the transport is open (70_reset_and_hazards.md R312). DESIGN CHOICE (log 25): of a Transmit a free prefix reaches
the panel, and does so in the tick of the reset, before every byte of a later frame; the specification leaves the time of a
late effect open. -/
def dropOutstanding (s : State) : State :=
  match s.env.outstanding with
  | none => s
  | some o =>
    let s1 := logAt o.issued (.request o.req .lost s.env.now) s
    { s1 with env := { s1.env with
        outstanding := none, reached := s1.env.reached ++ deliveredBytes o.req .lost o.answer } }

/-- The block's reset with configuration input `c` (70_reset_and_hazards.md R310 to R312, values of 10_state.md R44). It
sets no pin, records no Done and no Notify, clears the written-marks of both memories, and leaves FAULTED alone (R43). -/
def resetBlock (c : Cfg) (s : State) : State :=
  let s1 := dropOutstanding s
  { State.afterReset s.build c with
    faulted := s.faulted, env := { s1.env with packLeft := 0 } }

/-- A reset is due: the host asserts it in this tick (or asserted it in an earlier one). -/
def resetDue (s : State) : Bool :=
  match s.env.resets with
  | [] => false
  | (t, _) :: _ => decide (t ≤ s.env.now)

/-- A tick in which the reset is asserted: "the block accepts nothing on any port" (R310). -/
def resetTick (s : State) : State :=
  match s.env.resets with
  | [] => endTick s
  | (_, c) :: rest => endTick (resetBlock c { s with env := { s.env with resets := rest } })

end Sys2Proof.Machine
end

