-- ==== Sys2Proof/Machine/Engine.lean ====
section
/-! DEFINITION. The three engines of the block, one tick at a time: the framer's state machine (40_framer.md R121, R140),
the synchronizer's loop (41_busy_sync.md R160) and the packer (42_packer.md R191); one tick of the block while an operation
is in progress; and the run of an operation from its acceptance to its finish. -/

namespace Sys2Proof.Machine

/-! ### The framer -/

/-- The bytes of the frame in progress: the PBUF range of DATAB (R130), else the one byte of CMD or DATA (R125, R128).
PBUF cannot change while the frame runs (20_memory.md R73). -/
def frameBytes (s : State) : List Byte :=
  if fieldOp s.curOp = 3 then (s.pbuf.readRange (fieldAddr s.curOp).toNat (fieldLen s.curOp).toNat).getD []
  else [fieldByte s.curOp]

/-- Start a frame at DC level `l` (R121): `SetPin(DC, l)`. -/
def startFrame (l : Level) (s : State) : State := issue .fDc (.setPin .dc l) s

/-- Start the reset waveform (R140): `SetPin(RST, RST_RUN_LEVEL)`. -/
def startPulse (s : State) : State := issue .rSet1 (.setPin .rst s.cfg.rstRunLevel) { s with fcnt := 0 }

/-- How many ticks a hold state lasts (R140, R142); 0 for a state that is no hold. -/
def holdTicks (c : Cfg) (st : FramerState) : Nat :=
  match st with
  | .rHold1 => c.rstHoldTicks.toNat
  | .rDelay => c.rstDelayTicks.toNat
  | .rHold2 => c.rstHoldTicks.toNat
  | _ => 0

/-- The end of a hold (R140): the next edge, or the finish. -/
def holdDone (s : State) : State :=
  match s.framer with
  | .rHold1 => issue .rSet2 (.setPin .rst s.cfg.rstRunLevel.other) s
  | .rDelay => issue .rSet3 (.setPin .rst s.cfg.rstRunLevel) s
  | .rHold2 => finish .ok s
  | _ => s

/-- Enter a hold in the tick the request before it returned, FCNT counting from 0 (R142). A hold of 0 ticks is over at
once. -/
def startHold (st : FramerState) (s : State) : State :=
  let s1 := { s with framer := st, fcnt := 0 }
  if holdTicks s1.cfg st = 0 then holdDone s1 else s1

/-- One tick of a hold: FCNT counts; the hold is over `holdTicks` ticks after it began (R142). -/
def holdTick (s : State) : State :=
  match s.framer with
  | .rHold1 | .rDelay | .rHold2 =>
    let s1 := { s with fcnt := s.fcnt + 1 }
    if holdTicks s1.cfg s1.framer ≤ s1.fcnt.toNat then holdDone s1 else s1
  | _ => s

/-- The framer's next move in the tick a request returned ok (R121, R140). -/
def framerNext (s : State) : State :=
  match s.framer with
  | .fDc => issue .fCsa (.setPin .cs s.cfg.csActiveLevel) s
  | .fCsa => issue .fTx (.transmit (frameBytes s)) s
  | .fTx => issue .fCsd (.setPin .cs s.cfg.csActiveLevel.other) s
  | .fCsd => finish .ok s
  | .rSet1 => startHold .rHold1 s
  | .rSet2 => startHold .rDelay s
  | .rSet3 => startHold .rHold2 s
  | _ => s

/-- The outstanding request returns in this tick: on ok the framer moves on, on err it issues no further request and the
operation finishes with TRANSPORT_FAILURE (R123). -/
def replyArrives (o : Outstanding) (s : State) : State :=
  if o.answer.ok then framerNext (takeReply o s) else finish .transportFailure (takeReply o s)

/-- One tick of the framer: wait for the outstanding request, or count a hold. -/
def framerTick (s : State) : State :=
  match s.env.outstanding with
  | some o =>
    if o.left ≤ 1 then replyArrives o s
    else { s with env := { s.env with outstanding := some { o with left := o.left - 1 } } }
  | none => holdTick s

/-! ### The synchronizer -/

/-- The entry of WAIT (41_busy_sync.md R161). -/
def enterWait (s : State) : State :=
  let s1 := { s with sync := .sPoll, elapsed := 0, samples := 0 }
  if s1.cfg.notifyEn then log (.notify true) { s1 with notify := true } else s1

/-- The exit of WAIT with a result (R166). -/
def exitWait (code : Result) (s : State) : State :=
  finish code (if s.cfg.notifyEn then log (.notify false) { s with notify := false } else s)

/-- One sample of BUSY (R162): a `ReadPin(BUSY)` event, one more in SAMPLES. -/
def sampleBusy (s : State) : State :=
  log (.readPin (nextBusy s.env)) { s with samples := s.samples + 1, env := takeBusy s.env }

/-- One tick of WAIT's loop (R160): in a sample tick the ready test, then the deadline test (R163, R164); ELAPSED counts
the ticks that do not exit (R165). -/
def waitTick (s : State) : State :=
  if s.elapsed % s.cfg.pollTicks.toNat = 0 then
    if nextBusy s.env ≠ s.cfg.busyActiveLevel then exitWait .ok (sampleBusy s)
    else if s.cfg.timeoutTicks.toNat < s.elapsed then exitWait .timeout (sampleBusy s)
    else { sampleBusy s with elapsed := s.elapsed + 1 }
  else { s with elapsed := s.elapsed + 1 }

/-! ### The packer -/

/-- The start of a packer operation that passed its checks: it finishes some number n ≥ 1 of ticks later (42_packer.md
R191). -/
def startPack (s : State) : State :=
  { s with packer := .pRun, env := { takePackTime s.env with packLeft := nextPackTime s.env + 1 } }

/-- One tick of the packer: in its last tick all of `PBUF[0 .. L-1]` is written at once (R191, 20_memory.md R73). -/
def packTick (s : State) : State :=
  if s.env.packLeft ≤ 1 then
    finish .ok
      { s with pbuf := s.pbuf.setLow (fullLen s.cfg) (packerByte s.cfg s.curOp s.src),
               env := { s.env with packLeft := 0 } }
  else { s with env := { s.env with packLeft := s.env.packLeft - 1 } }

/-! ### One tick of a busy block, and the run of an operation -/

/-- The engine that runs the operation of word CUR_OP (30_encoding.md R93) does its tick. (An illegal word is never in
progress after its acceptance tick, R95.) -/
def engineTick (s : State) : State :=
  match (fieldOp s.curOp).toNat with
  | 1 => framerTick s
  | 2 => framerTick s
  | 3 => framerTick s
  | 4 => waitTick s
  | 5 => framerTick s
  | 6 => packTick s
  | 7 => packTick s
  | _ => finish .illegalOp s

/-- One tick of the block while an operation is in progress. The memory port is held (20_memory.md R64) and the operation
port is not ready (30_encoding.md R91); a register read is answered (10_state.md R32); a reset abandons the operation
(70_reset_and_hazards.md R312). -/
def tick (s : State) : State :=
  if resetDue s then resetTick s else endTick (engineTick (readPort s))

/-- At most n ticks, while the operation is in progress. -/
def runTicks : Nat → State → State
  | 0, s => s
  | n + 1, s =>
    match s.opState with
    | .idle => s
    | .busy => runTicks n (tick s)

/-- At least as many ticks as the operation in progress needs to its next transport request, the end of its hold, the end
of its WAIT or the end of its packing. -/
def phaseTicks (s : State) : Nat :=
  1 + (match s.env.outstanding with
       | some o => o.left
       | none => 0)
    + s.env.packLeft + s.cfg.rstHoldTicks.toNat + s.cfg.rstDelayTicks.toNat + s.cfg.pollTicks.toNat
    + s.cfg.timeoutTicks.toNat

/-- Run through at most k phases of the operation in progress. -/
def runPhases : Nat → State → State
  | 0, s => s
  | k + 1, s => runPhases k (runTicks (phaseTicks s) s)

/-- Run the operation in progress to its finish: an operation has at most six phases (RSTP: three edges and three holds,
40_framer.md R140). -/
def complete (s : State) : State := runPhases 6 s

/-- An operation from its acceptance tick to its finish (30_encoding.md R91, 60_exceptions.md R280): the register port's
part of the tick, the acceptance of word `w`, what `body` does in the same tick, and then tick by tick to the finish.
Nothing runs under an illegal configuration (10_state.md R23) or while another operation is in progress (R91). FAULTED is no
state of the hardware and decides nothing (R43). -/
def operate (w : Word) (body : State → Except Fault State) (s : State) : Host.Outcome State Fault Refusal :=
  if legalCfg s.build s.cfg then
    match s.opState with
    | .busy => .refused .portBusy
    | .idle =>
      match body (accept w (readPort s)) with
      | .error f => .fault f
      | .ok s1 => .next (complete (endTick s1))
  else .refused .illegalConfig

end Sys2Proof.Machine
end

