-- ==== Sys2Proof/Machine/Framer.lean ====
section
/-! DEFINITION. The meanings of the framer's operations: CMD, DATA, DATAB and RSTP (40_framer.md). -/

namespace Sys2Proof.Machine

/-- CMD (40_framer.md R125): `frame(DC_CMD_LEVEL, [b])`. -/
def execCmd (b : Byte) (s : State) : Host.Outcome State Fault Refusal :=
  operate (encode (.cmd b)) (fun s => .ok (startFrame s.cfg.dcCmdLevel s)) s

/-- DATA (R128): `frame(not(DC_CMD_LEVEL), [b])`. -/
def execData (b : Byte) (s : State) : Host.Outcome State Fault Refusal :=
  operate (encode (.data b)) (fun s => .ok (startFrame s.cfg.dcCmdLevel.other s)) s

/-- DATAB (R130): INVALID_INPUT for an empty or out-of-range range (R131); the model fault UNINIT if a byte of the range
is unwritten (20_memory.md R68); else `frame(not(DC_CMD_LEVEL), PBUF[addr .. addr+len-1])`. -/
def execDatab (len addr : BitVec 14) (s : State) : Host.Outcome State Fault Refusal :=
  operate (encode (.datab len addr))
    (fun s =>
      if databInvalid s.build len addr then .ok (finish .invalidInput s)
      else
        match s.pbuf.firstUnwritten addr.toNat len.toNat with
        | some a => .error (raiseUninitPbuf a s)
        | none => .ok (startFrame s.cfg.dcCmdLevel.other s))
    s

/-- RSTP (R140): the reset double pulse on RST. -/
def execRstp (s : State) : Host.Outcome State Fault Refusal :=
  operate (encode .rstp) (fun s => .ok (startPulse s)) s

end Sys2Proof.Machine
end

