-- ==== Sys2Proof/Machine/Packer.lean ====
section
/-! DEFINITION. The meanings of the packer's operations: PACK.FULL, PACK.SUB and FILL (42_packer.md). -/

namespace Sys2Proof.Machine

/-- A pack reads every cell of the W × H source, also those it drops (42_packer.md R195, R200): the first unwritten one is
the model fault UNINIT (20_memory.md R68), met with PST already P_RUN; without one the packing starts. -/
def packReading (w h : BitVec 13) (s : State) : Except Fault State :=
  match firstUnwrittenCell s.src w.toNat 0 h.toNat with
  | some (x, y) => .error (raiseUninitSrc x y { s with packer := .pRun })
  | none => .ok (startPack s)

/-- PACK.FULL (42_packer.md R195): INVALID_INPUT unless the size is the panel's or its transpose (R196). -/
def execPackFull (w h : BitVec 13) (s : State) : Host.Outcome State Fault Refusal :=
  operate (encode (.packFull w h))
    (fun s =>
      match fullOrientation s.cfg w h with
      | none => .ok (finish .invalidInput s)
      | some _ => packReading w h s)
    s

/-- PACK.SUB (R200): INVALID_INPUT if the sub-image does not lie in the source grid (R202). -/
def execPackSub (w h : BitVec 13) (s : State) : Host.Outcome State Fault Refusal :=
  operate (encode (.packSub w h))
    (fun s => if subInvalid s.build w h then .ok (finish .invalidInput s) else packReading w h s)
    s

/-- FILL (R205): "No check can fail". -/
def execFill (b : Byte) (s : State) : Host.Outcome State Fault Refusal :=
  operate (encode (.fill b)) (fun s => .ok (startPack s)) s

end Sys2Proof.Machine
end

