-- ==== Sys2Proof/Machine/Synchronizer.lean ====
section
/-! DEFINITION. The meaning of the synchronizer's operation, WAIT (41_busy_sync.md). -/

namespace Sys2Proof.Machine

/-- WAIT (41_busy_sync.md R160): the entry and the first sample are in the acceptance tick (R161, R162). -/
def execWait (s : State) : Host.Outcome State Fault Refusal :=
  operate (encode .wait) (fun s => .ok (waitTick (enterWait s))) s

end Sys2Proof.Machine
end

