-- ==== Sys2Proof/Machine/Dispatch.lean ====
section
/-! DEFINITION. One arm per operation of the opcode table, each a direct call of its meaning. -/

namespace Sys2Proof.Machine

def exec (i : Instr) (s : State) : Host.Outcome State Fault Refusal :=
  match i with
  | .cmd b => Sys2Proof.Machine.execCmd b s
  | .data b => Sys2Proof.Machine.execData b s
  | .datab len addr => Sys2Proof.Machine.execDatab len addr s
  | .wait => Sys2Proof.Machine.execWait s
  | .rstp => Sys2Proof.Machine.execRstp s
  | .packFull w h => Sys2Proof.Machine.execPackFull w h s
  | .packSub w h => Sys2Proof.Machine.execPackSub w h s
  | .fill b => Sys2Proof.Machine.execFill b s

end Sys2Proof.Machine
end

