-- ==== Sys2Proof/Machine/HostPort.lean ====
section
/-! DEFINITION. The block's ports towards the host: an illegal word (30_encoding.md R95), the memory port (20_memory.md R64
to R68), a tick without an operation, and the word the host presents. -/

namespace Sys2Proof.Machine

/-- An illegal word (30_encoding.md R95): accepted like any other, it finishes in its acceptance tick with ILLEGAL_OP and
has no other effect. -/
def execIllegal (w : Word) (s : State) : Host.Outcome State Fault Refusal :=
  operate w (fun s => .ok (finish .illegalOp s)) s

/-- What the memory port returns in the current tick. -/
def replyMem (data : Option Byte) (merr : Bool) (s : State) : State :=
  { s with env := { s.env with
      memReplies := s.env.memReplies ++ [{ tick := s.env.now, data := data, merr := merr }] } }

/-- PBUF has byte `a` (20_memory.md R60). -/
def pbufInRange (b : Build) (a : Nat) : Bool := decide (a < b.pbufSize.toNat)

/-- SRC has cell (x, y) (R62). -/
def srcInRange (b : Build) (x y : Nat) : Bool := decide (x < b.srcWMax.toNat) && decide (y < b.srcHMax.toNat)

/-- A classification bit as the port returns it. -/
def darkByteOf (d : Bool) : Byte := if d then 1 else 0

/-- Write cell (x, y) of SRC with the classification `d`, or answer MERR (R64, R65). -/
def writeSrc (x y : Nat) (d : Bool) (s : State) : State :=
  if srcInRange s.build x y then replyMem none false { s with src := s.src.write (srcKey x y) d }
  else replyMem none true s

/-- One memory-port transaction (R64): out of range it has no effect, a read returns 0 and MERR is 1 (R65); a read of an
unwritten byte or cell is the model fault UNINIT (R68). -/
def performTxn (t : MemTxn) (s : State) : Except Fault State :=
  match t with
  | .pbWr a v =>
    if pbufInRange s.build a then .ok (replyMem none false { s with pbuf := s.pbuf.write a v })
    else .ok (replyMem none true s)
  | .pbRd a =>
    if pbufInRange s.build a then
      match s.pbuf.read a with
      | some v => .ok (replyMem (some v) false s)
      | none => .error (raiseUninitPbuf a s)
    else .ok (replyMem (some 0) true s)
  | .srcWr x y d => .ok (writeSrc x y d s)
  | .srcWrRgb x y r g b => .ok (writeSrc x y (classify s.cfg r g b) s)
  | .srcRd x y =>
    if srcInRange s.build x y then
      match s.src.read (srcKey x y) with
      | some d => .ok (replyMem (some (darkByteOf d)) false s)
      | none => .error (raiseUninitSrc x y s)
    else .ok (replyMem (some 0) true s)

/-- The memory port's part of a tick in which it accepts: the transaction at its head, if the host presents one by now.
One transaction a tick (R64). -/
def memPort (s : State) : Except Fault State :=
  match s.env.txns with
  | [] => .ok s
  | (t, x) :: rest =>
    if t ≤ s.env.now then performTxn x { s with env := { s.env with txns := rest } } else .ok s

/-- A tick of the idle block in which no operation is accepted: the register port, then the memory port (R64). -/
def idleTick (s : State) : Host.Outcome State Fault Refusal :=
  match memPort (readPort s) with
  | .error f => .fault f
  | .ok s1 => .next (endTick s1)

/-- The word on the operation port in this tick, if `op_valid` is 1 (30_encoding.md R91). -/
def presentedWord (s : State) : Option Word :=
  match s.env.ops with
  | [] => none
  | (t, w) :: _ => if t ≤ s.env.now then some w else none

/-- The host has handed over the word it presents. -/
def takeWord (s : State) : State := { s with env := { s.env with ops := s.env.ops.tail } }

/-- The memory port's ready output (20_memory.md R64): OPSTATE is IDLE at the start of the tick, no operation is accepted
in it, and the block is not in reset (70_reset_and_hazards.md R310). -/
def memReady (s : State) : Bool := opReady s && (presentedWord s).isNone && !resetDue s

/-- The model fault UNINIT that a busy block's operation raises. A busy block between two steps is one whose operation met
an unwritten cell: the operation has no result (20_memory.md R68) and stays in progress until a reset (log 7). -/
def pendingUninit (s : State) : Option Fault :=
  if fieldOp s.curOp = 3 then
    (s.pbuf.firstUnwritten (fieldAddr s.curOp).toNat (fieldLen s.curOp).toNat).map (fun a => raiseUninitPbuf a s)
  else if fieldOp s.curOp = 6 then
    (firstUnwrittenCell s.src (fieldW s.curOp).toNat 0 (fieldH s.curOp).toNat).map (fun c => raiseUninitSrc c.1 c.2 s)
  else none

/-- A busy block between two steps in which no reset is asserted: an operation that reads an unwritten cell faults, in this
tick as in the one it was accepted in (log 7); any other runs to its finish (log 1). -/
def resume (s : State) : Host.Outcome State Fault Refusal :=
  match pendingUninit (readPort s) with
  | some f => .fault f
  | none => .next (complete s)

/-- The host's next word `w` on the operation port from now on, the port ready and no reset asserted now: everything the
acceptance of `w` in the next step takes (30_encoding.md R91). -/
def presentNext (w : Word) (s : State) : State :=
  { s with
    opState := .idle,
    env := { s.env with
      ops := (s.env.now, w) :: s.env.ops,
      resets := s.env.resets.filter (fun r => decide (s.env.now < r.1)) } }

end Sys2Proof.Machine
end

