-- ==== Sys2Proof/Machine/Step.lean ====
section
/-! DEFINITION. One step of the machine, and the host's way to have the next step run a given word. -/

namespace Sys2Proof.Machine

/-- One step (log 1). Under an illegal configuration there is none (10_state.md R23). FAULTED decides nothing (R43, log 7). A
reset asserted in this tick comes first (70_reset_and_hazards.md R310). An idle block accepts the word the host presents and
runs that operation to its finish (30_encoding.md R91, 60_exceptions.md R280); with no word it does one tick. A busy block
faults again if its operation reads an unwritten cell, else runs its operation to the finish. -/
def step (s : State) : Host.Outcome State Fault Refusal :=
  if legalCfg s.build s.cfg then
    if resetDue s then .next (resetTick s)
    else
      match s.opState with
      | .busy => resume s
      | .idle =>
        match presentedWord s with
        | none => idleTick s
        | some w =>
          match decode w with
          | some i => exec i (takeWord s)
          | none => execIllegal w (takeWord s)
  else .refused .illegalConfig

/-- `s` with the word `w` on the operation port, so that the very next step accepts it (log 6). An operation is one
32-bit word, so `nbits` adds nothing: the bits above it are 0. -/
def State.withFetchWord (s : State) (_nbits w : Nat) : State := presentNext (BitVec.ofNat 32 w) s

end Sys2Proof.Machine
end

