-- ==== Sys2Proof/Machine/HostProgram.lean ====
section
/-! DEFINITION. The host (00_scope.md R9): the source's Sequence Controller, whose operations are programs of block
operations (43_panel_protocol.md Part 2), and the construction of a handle (70_reset_and_hazards.md R313). The host is an
agent of its own beside the block's `State`: it acts on the block through `step` alone, and through the reset input when
a handle is constructed. -/

namespace Sys2Proof.Machine

/-! ### The panel's wire protocol: command payloads (43_panel_protocol.md R231 to R243) -/

/-- 0x01 Driver output control (R232). -/
def driverOutputControl (ph : Nat) : List AsmLine := sendLines 0x01 [(ph - 1) &&& 0xFF, (ph - 1) >>> 8, 0x00]

/-- 0x11 Data entry mode (R234). -/
def dataEntryMode : List AsmLine := sendLines 0x11 [0x03]

/-- 0x12 Software reset (R235). -/
def softwareReset : List AsmLine := sendLines 0x12 []

/-- 0x21 Display update control 1 (R239). -/
def displayUpdateControl1 : List AsmLine := sendLines 0x21 [0x00, 0x80]

/-- 0x3C Border waveform control (R241). -/
def borderWaveform : List AsmLine := sendLines 0x3C [0x05]

/-! ### The host's programs -/

/-- Initialization (R251): "hardware reset pulse, await-busy, software-reset, await-busy, driver-output-control,
data-entry-mode, full-panel window, border-waveform, display-update-control-1, await-busy". -/
def initLines (c : Cfg) : List AsmLine :=
  [.rstp, .wait] ++ softwareReset ++ [.wait] ++ driverOutputControl c.ph.toNat ++ dataEntryMode
    ++ PseudoOp.expand (.window 0 0 (c.pw.toNat - 1) (c.ph.toNat - 1)) ++ borderWaveform ++ displayUpdateControl1
    ++ [.wait]

/-- The fill byte of Clear (R255). -/
def clearByte (c : Cfg) (toWhite : Bool) : Byte := if toWhite then lightByte c.polarity else darkByte c.polarity

/-- Clear(toWhite) (R255): FILL, Write RAM with the full buffer, full refresh. -/
def clearLines (c : Cfg) (toWhite : Bool) : List AsmLine :=
  [.fill (clearByte c toWhite).toNat] ++ PseudoOp.expand (.writeRam (fullLen c)) ++ PseudoOp.expand .refreshFull

/-- The operations of DrawImage after the image is in SRC (R256). -/
def drawLines (c : Cfg) (w h : Nat) : List AsmLine :=
  [.packFull w h] ++ PseudoOp.expand (.writeRam (fullLen c)) ++ PseudoOp.expand .refreshFull

/-- The operations of PartialDrawImage after the sub-image is in SRC, steps 4 to 6 of R257. -/
def partialLines (c : Cfg) (w h : Nat) : List AsmLine :=
  [.packSub w h] ++ PseudoOp.expand (.writeRam (stride c * h)) ++ PseudoOp.expand .refreshPart

/-- Sleep() (R258): no WAIT follows. -/
def sleepLines : List AsmLine := PseudoOp.expand .sleep

/-! ### The Window (R262, R263) -/

/-- A window in panel coordinates, bounds inclusive (R262). -/
structure Window where
  xStart : Nat
  yStart : Nat
  xEnd : Nat
  yEnd : Nat
deriving DecidableEq, Repr

/-- The window of a W × H sub-image at an origin, or `none` where the host rejects the call with InvalidInput (R263). -/
def windowOf (c : Cfg) (ox oy : Int) (w h : Nat) : Option Window :=
  if 1 ≤ w ∧ 1 ≤ h ∧ 0 ≤ ox ∧ 0 ≤ oy ∧ ox + w ≤ c.pw.toNat ∧ oy + h ≤ c.ph.toNat then
    some { xStart := ox.toNat, yStart := oy.toNat, xEnd := ox.toNat + w - 1, yEnd := oy.toNat + h - 1 }
  else none

/-- WINDOW xStart, yStart, xEnd, yEnd (R242, R243, R257 step 2). -/
def windowLines (v : Window) : List AsmLine := PseudoOp.expand (.window v.xStart v.yStart v.xEnd v.yEnd)

/-! ### The host's state machine (R250) -/

/-- The states of the host's state machine (R250). -/
inductive Phase where
  | uninitialized
  | resetting
  | awaitingBusyAfterReset
  | initializing
  | ready
  | writing
  | awaitingBusyAfterUpdate
  | sleeping
  | closed
deriving DecidableEq, Repr

/-- A handle: the host's phase, whether it holds the transport open, and the block it drives. -/
structure Driver where
  phase : Phase
  busOpen : Bool
  machine : State
deriving DecidableEq, Repr

/-- The source's typed errors (R260, 60_exceptions.md R286). -/
inductive HostError where
  | timeout
  | transportFailure
  | invalidInput
  | pinResolutionFailure
deriving DecidableEq, Repr

/-- How a host operation ends. -/
inductive HostOutcome where
  /-- It succeeded. -/
  | done (d : Driver)
  /-- It reported a typed error. -/
  | failed (e : HostError) (d : Driver)
  /-- The block met a model fault (20_memory.md R68). -/
  | fault (f : Fault)
  /-- The block refused its configuration (10_state.md R23). -/
  | refused (r : Refusal)
  /-- The specification gives the call no meaning: a second Close() (R259), a call in a phase that does not allow it, an
  operand no operation word can hold (log 19), a block reset during one of its operations (log 23). -/
  | noMeaning
deriving DecidableEq, Repr

/-- The phase of one line of an operation from Ready (R250): its refresh's WAIT is AwaitingBusyAfterUpdate, everything
else is Writing. -/
def updatePhase (l : AsmLine) : Phase := if l = .wait then .awaitingBusyAfterUpdate else .writing

/-- The lines of an operation from Ready, each with the phase the host is in while it runs. -/
def updateProgram (ls : List AsmLine) : List (Phase × AsmLine) := ls.map (fun l => (updatePhase l, l))

/-- The lines of the initialization with their phases (R250): RSTP is Resetting, the first WAIT AwaitingBusyAfterReset,
the rest Initializing. -/
def initProgram (c : Cfg) : List (Phase × AsmLine) :=
  match initLines c with
  | a :: b :: rest => (.resetting, a) :: (.awaitingBusyAfterReset, b) :: rest.map (fun l => (.initializing, l))
  | ls => ls.map (fun l => (.initializing, l))

/-- The host presents word `w` on the operation port in the current tick (30_encoding.md R91). -/
def hostPresent (w : Word) (s : State) : State := { s with env := { s.env with ops := (s.env.now, w) :: s.env.ops } }

/-- The host presents a transaction on the memory port in the current tick (20_memory.md R64). -/
def hostTxn (t : MemTxn) (s : State) : State := { s with env := { s.env with txns := (s.env.now, t) :: s.env.txns } }

/-- The typed error of a result (R260). `none` for ILLEGAL_OP, which no host program meets, and for NONE, which it meets
where a block reset abandons its operation or comes before it (70_reset_and_hazards.md R312). -/
def hostErrorOf : Result → Option HostError
  | .timeout => some .timeout
  | .transportFailure => some .transportFailure
  | .invalidInput => some .invalidInput
  | _ => none

/-- Run a program: each word is presented in the tick after the one before finished; the host stops at the first operation
that finishes other than OK (R260). DESIGN CHOICE (log 23): where a block reset abandons the operation or comes before it,
RESULT is NONE; the specification gives the host no outcome there, and the program has no meaning. -/
def runProgram : List (Phase × AsmLine) → Driver → HostOutcome
  | [], d => .done d
  | (p, l) :: rest, d =>
    match l.assemble with
    | none => .noMeaning
    | some w =>
      match step (hostPresent w d.machine) with
      | .fault f => .fault f
      | .refused r => .refused r
      | .next t =>
        if t.result = .ok then runProgram rest { d with phase := p, machine := t }
        else
          match hostErrorOf t.result with
          | some e => .failed e { d with phase := p, machine := t }
          | none => .noMeaning

/-- Carry out memory-port transactions, one a tick (20_memory.md R64). DESIGN CHOICE (log 24): the host does not look at what
the port answered; a transaction refused in the tick of a block reset stays on the port behind the later ones, and the host
goes on. The specification gives the host no outcome there. -/
def runTxns : List MemTxn → State → Host.Outcome State Fault Refusal
  | [], s => .next s
  | t :: rest, s =>
    match step (hostTxn t s) with
    | .next s1 => runTxns rest s1
    | o => o

/-- The end of an operation from Ready: the host is in Ready again, whether it succeeded or failed (R250). -/
def backToReady : HostOutcome → HostOutcome
  | .done d => .done { d with phase := .ready }
  | .failed e d => .failed e { d with phase := .ready }
  | o => o

/-- An image the host draws: its size and the classification of each pixel (42_packer.md R190). -/
structure Image where
  w : Nat
  h : Nat
  dark : Nat → Nat → Bool

/-- The transactions that write an image into `SRC[0 .. W-1][0 .. H-1]`, row by row (R256, R257 step 3). -/
def imageTxns (img : Image) : List MemTxn :=
  (List.range img.h).flatMap (fun y => (List.range img.w).map (fun x => MemTxn.srcWr x y (img.dark x y)))

/-- Write an image into SRC, then run a program (R256, R257 steps 3 and later); a block reset among the writes does not stop
it (log 24). -/
def writeThenRun (img : Image) (ls : List AsmLine) (d : Driver) : HostOutcome :=
  match runTxns (imageTxns img) d.machine with
  | .fault f => .fault f
  | .refused r => .refused r
  | .next s => runProgram (updateProgram ls) { d with phase := .writing, machine := s }

/-- Clear(toWhite) (R255). -/
def hostClear (toWhite : Bool) (d : Driver) : HostOutcome :=
  if d.phase = .ready then backToReady (runProgram (updateProgram (clearLines d.machine.cfg toWhite)) d) else .noMeaning

/-- DrawImage(pixels) (R256). -/
def hostDraw (img : Image) (d : Driver) : HostOutcome :=
  if d.phase = .ready then backToReady (writeThenRun img (drawLines d.machine.cfg img.w img.h) d) else .noMeaning

/-- PartialDrawImage(pixels, originX, originY) (R257): a window that is not within the panel is rejected before any block
operation (R263). -/
def hostPartial (img : Image) (ox oy : Int) (d : Driver) : HostOutcome :=
  if d.phase = .ready then
    match windowOf d.machine.cfg ox oy img.w img.h with
    | none => .failed .invalidInput d
    | some v =>
      match runProgram (updateProgram (windowLines v)) d with
      | .done d1 => backToReady (writeThenRun img (partialLines d.machine.cfg img.w img.h) d1)
      | o => backToReady o
  else .noMeaning

/-- Sleep() (R258): on success the host moves from Ready to Sleeping; a failure leaves it in Ready (R250: its operations
are no Writing, which is those of R255 to R257). -/
def hostSleep (d : Driver) : HostOutcome :=
  if d.phase = .ready then
    match runProgram (sleepLines.map (fun l => (Phase.ready, l))) d with
    | .done d1 => .done { d1 with phase := .sleeping }
    | o => backToReady o
  else .noMeaning

/-- Release the transport (`closeBus`): the handle is Closed. DESIGN CHOICE (log 22): the specification gives `closeBus` no
outcome, and here it always succeeds. -/
def releaseBus (d : Driver) : Driver := { d with phase := .closed, busOpen := false }

/-- Close() (R259): Sleep() first unless already asleep; the transport is released whatever Sleep() returns, and the first
error met is reported. A second Close() has no meaning. -/
def hostClose (d : Driver) : HostOutcome :=
  match d.phase with
  | .sleeping => .done (releaseBus d)
  | .ready =>
    match hostSleep d with
    | .done d1 => .done (releaseBus d1)
    | .failed e d1 => .failed e (releaseBus d1)
    | o => o
  | _ => .noMeaning

/-! ### Construction (70_reset_and_hazards.md R313) -/

/-- What construction is given and what the transport answers: the four pin names, whether `openBus` returned ok, whether
each name was found. -/
structure Construction where
  dcName : String
  csName : String
  rstName : String
  busyName : String
  openOk : Bool
  dcFound : Bool
  csFound : Bool
  rstFound : Bool
  busyFound : Bool
  cfg : Cfg
deriving DecidableEq, Repr

/-- The pin names are "non-empty and distinct" (R313). -/
def pinNamesValid (k : Construction) : Bool :=
  let names := [k.dcName, k.csName, k.rstName, k.busyName]
  names.all (fun n => decide (n ≠ "")) && decide names.Nodup

/-- Reset the block in this tick with configuration input `c` (R310). -/
def hostReset (c : Cfg) (s : State) : State :=
  resetTick { s with env := { s.env with resets := (s.env.now, c) :: s.env.resets } }

/-- No handle: nothing is open, nothing is initialized (43_panel_protocol.md R252). -/
def noHandle (s : State) : Driver := { phase := .uninitialized, busOpen := false, machine := s }

/-- Construction in the order of R313: open the bus, resolve the pins, reset the block, run the initialization; any failure
releases what was acquired and leaves no handle (R252). -/
def hostConstruct (k : Construction) (s : State) : HostOutcome :=
  if !k.openOk then .failed .transportFailure (noHandle s)
  else if !pinNamesValid k then .noMeaning
  else if !(k.dcFound && k.csFound && k.rstFound && k.busyFound) then .failed .pinResolutionFailure (noHandle s)
  else
    match runProgram (initProgram k.cfg) { phase := .resetting, busOpen := true, machine := hostReset k.cfg s } with
    | .done d => .done { d with phase := .ready }
    | .failed e d => .failed e (noHandle d.machine)
    | o => o

end Sys2Proof.Machine
end

