-- ==== Sys2Proof/Safety.lean ====
section
/-! DEFINITION. The terms in which statements about the block are made: when an operation can be accepted, when no reset
disturbs it, the invariants of the states between two steps, and what one state may differ from another in. -/

namespace Sys2Proof.Machine

/-- The block is ready for an operation: legally configured (10_state.md R23), OPSTATE IDLE (30_encoding.md R91). -/
abbrev Ready (s : State) : Prop :=
  legalCfg s.build s.cfg = true ∧ s.opState = .idle

/-- The host asserts no reset: "CFG does not change between resets" (10_state.md R22) speaks of such runs. -/
abbrev NoReset (s : State) : Prop := s.env.resets = []

/-- The canonical and in-range form of the memories: PBUF lists only bytes the memory has (20_memory.md R60), SRC only
cells the grid has (R62), each in strictly rising address order. -/
abbrev MemInv (s : State) : Prop :=
  s.pbuf.wf ∧ s.src.wf ∧ (∀ c ∈ s.pbuf, c.1 < s.build.pbufSize.toNat) ∧
    (∀ c ∈ s.src, c.1 % 8192 < s.build.srcWMax.toNat ∧ c.1 / 8192 < s.build.srcHMax.toNat)

/-- Between two steps no operation is in progress: OPSTATE is IDLE, the three engines are idle (10_state.md R28, R30,
60_exceptions.md R280), no request is outstanding, and NOTIFY is 0 (41_busy_sync.md R166). -/
abbrev IdleInv (s : State) : Prop :=
  s.opState = .idle ∧ s.framer = .fIdle ∧ s.sync = .sIdle ∧ s.packer = .pIdle ∧ s.env.outstanding = none ∧
    s.notify = false

/-- The events of the observation that are transport requests (00_scope.md R12). -/
def isRequest : Stamped → Bool
  | ⟨_, .request _ _ _⟩ => true
  | _ => false

/-- The events that are BUSY samples. -/
def isSample : Stamped → Bool
  | ⟨_, .readPin _⟩ => true
  | _ => false

/-- The events that are Notify events. -/
def isNotify : Stamped → Bool
  | ⟨_, .notify _⟩ => true
  | _ => false

/-- The events that are Done events. -/
def isDone : Stamped → Bool
  | ⟨_, .done _ _⟩ => true
  | _ => false

/-- The latency of a request: it returns this many ticks after its issue (40_framer.md R122). -/
def latency (a : Answer) : Nat := a.extra + 1

/-- Operation `i` passes its checks in state `s` and is a frame at DC level `l` carrying the bytes `bs` (40_framer.md R125,
R128, R130): the one operand byte of CMD or DATA, or DATAB's bytes of PBUF in ascending order. -/
abbrev FrameOf (s : State) (i : Instr) (l : Level) (bs : List Byte) : Prop :=
  (∃ b, i = .cmd b ∧ l = s.cfg.dcCmdLevel ∧ bs = [b]) ∨
  (∃ b, i = .data b ∧ l = s.cfg.dcCmdLevel.other ∧ bs = [b]) ∨
  (∃ len addr, i = .datab len addr ∧ 1 ≤ len.toNat ∧ addr.toNat + len.toNat ≤ s.build.pbufSize.toNat ∧
    l = s.cfg.dcCmdLevel.other ∧ bs.length = len.toNat ∧
    ∀ k, k < len.toNat → s.pbuf.read (addr.toNat + k) = bs[k]?)

/-- The four requests of a frame that finishes OK (R120), the first issued in tick `t0`, each issued in the tick the one
before returned (R122). -/
def frameTrace (c : Cfg) (l : Level) (bs : List Byte) (t0 t1 t2 t3 t4 : Nat) : List Stamped :=
  [⟨t0, .request (.setPin .dc l) .ok t1⟩, ⟨t1, .request (.setPin .cs c.csActiveLevel) .ok t2⟩,
   ⟨t2, .request (.transmit bs) .ok t3⟩, ⟨t3, .request (.setPin .cs c.csActiveLevel.other) .ok t4⟩]

/-- `k` samples of BUSY that all read `l`, from tick `t0` on, `p` ticks apart (41_busy_sync.md R162). -/
def samplesOf (t0 p k : Nat) (l : Level) : List Stamped := (List.range k).map (fun j => ⟨t0 + j * p, .readPin l⟩)

/-- The Notify event of a WAIT under a configuration: none where no callback is configured (R161, R166). -/
def notifyEvent (c : Cfg) (t : Nat) (b : Bool) : List Stamped := if c.notifyEn then [⟨t, .notify b⟩] else []

/-- Every cell of a W × H source is written (70_reset_and_hazards.md R315). -/
abbrev SourceWritten (s : State) (w h : Nat) : Prop :=
  ∀ x y, x < w → y < h → (s.src.read (srcKey x y)).isSome = true

/-- Bit `7 - (dx mod 8)` of byte `dx/8 + dy × STRIDE` of PBUF (42_packer.md R194) is written and is `v`. -/
abbrev PixelIs (t : State) (dx dy : Nat) (v : Bool) : Prop :=
  ∃ byte, t.pbuf.read (dx / 8 + dy * ((t.cfg.pw.toNat + 7) / 8)) = some byte ∧ byte.getLsbD (7 - dx % 8) = v

/-- The memory port performs the host's transaction `x` in the coming step: the block is ready, no reset is asserted, no
word is presented, and `x` is at the head of the port (20_memory.md R64). -/
abbrev PortServes (s : State) (x : MemTxn) : Prop :=
  Ready s ∧ resetDue s = false ∧ presentedWord s = none ∧
    ∃ t rest, s.env.txns = (t, x) :: rest ∧ t ≤ s.env.now

/-- The state without its register reads and their answers: what a register read must leave alone (10_state.md R32). -/
def eraseReads (s : State) : State := { s with env := { s.env with regReads := [], regReplies := [] } }

/-- A fault without the register reads of the state it leaves. -/
def Fault.eraseReads : Fault → Fault
  | .uninitPbuf a left => .uninitPbuf a (Machine.eraseReads left)
  | .uninitSrc x y left => .uninitSrc x y (Machine.eraseReads left)

/-- What a step answers, without register reads. -/
def eraseReadsOutcome : Host.Outcome State Fault Refusal → Host.Outcome State Fault Refusal
  | .next t => .next (eraseReads t)
  | .fault f => .fault f.eraseReads
  | .refused r => .refused r

/-- The whole effect of a tick without an operation but for what its memory transaction does: PBUF, SRC, the memory port's
lists, the register port (R32) and one tick of time. Everything else is as before. -/
abbrev OnlyPortsMoved (s t : State) : Prop :=
  t = { s with
    pbuf := t.pbuf, src := t.src,
    env := { (readPort s).env with txns := t.env.txns, memReplies := t.env.memReplies, now := s.env.now + 1 } }

/-- A good end of a run (10_state.md R43): FAULTED is clear. -/
abbrev GoodEnd (s : State) : Prop := s.faulted = false

end Sys2Proof.Machine
end

