-- ==== Sys2Proof/Certificates/Slice0/Obligations.lean ====
section
/-! DEFINITION. The statements about the block, each formalising a rule of spec/ named in its docstring. -/

open Sys2Proof Sys2Proof.Machine

/-! ### Encoding -/

/-- Words of 95_test_vectors.md section 3.1, written out from the formats of 30_encoding.md R92: at least one operation of
each kind, and illegal words of each kind of R95. -/
def Obligations.SampleWordsDecode : Prop :=
  decode 0x10000012 = some (.cmd 0x12) ∧ decode 0x200000F7 = some (.data 0xF7) ∧
  decode 0x33E80000 = some (.datab 4000 0) ∧ decode 0x30007FFF = some (.datab 1 16383) ∧
  decode 0x40000000 = some .wait ∧ decode 0x50000000 = some .rstp ∧
  decode 0x600F40FA = some (.packFull 122 250) ∧ decode 0x601F407A = some (.packFull 250 122) ∧
  decode 0x64018001 = some (.packSub 12 1) ∧ decode 0x700000FF = some (.fill 0xFF) ∧
  decode 0x00000000 = none ∧ decode 0x10000100 = none ∧ decode 0x7000FF00 = none ∧ decode 0x40000001 = none ∧
  decode 0x50000001 = none ∧ decode 0x68000000 = none ∧ decode 0x8FFFFFFF = none ∧ decode 0xF0000000 = none

/-- 30_encoding.md sections 2 to 4: every operation, with every operand at every value its field admits, is decoded from
its own word, by the decoder and by the host's numbering of the opcode table. -/
def Obligations.EncodedOperationDecodes : Prop :=
  ∀ i : Instr, decode (encode i) = some i ∧ decodeTableWord 32 (encode i).toNat = some i

/-- 30_encoding.md section 4: "every word is exactly one of a legal operation or illegal": a legal word is the word of the
one operation it decodes to. -/
def Obligations.DecodedWordIsEncoded : Prop :=
  ∀ (w : Word) (i : Instr), decode w = some i → encode i = w

/-- 30_encoding.md R95: which words are illegal (bits counted from the word itself), and that an illegal word is accepted,
finishes in its acceptance tick with ILLEGAL_OP and has no other effect: the whole next state is written out. Two clauses are
the model's reading: that the word raises a Done event (log 10, from R91 and 60_exceptions.md R280), and what a register read
in the acceptance tick returns, `readPort` (log 8, from 10_state.md R32). -/
def Obligations.IllegalWordFinishesIllegalOp : Prop :=
  (∀ w : Word, decode w = none ↔
    (w.toNat / 2 ^ 28 = 0 ∨ 8 ≤ w.toNat / 2 ^ 28) ∨
    ((w.toNat / 2 ^ 28 = 1 ∨ w.toNat / 2 ^ 28 = 2 ∨ w.toNat / 2 ^ 28 = 7) ∧
      ∃ k, 8 ≤ k ∧ k ≤ 27 ∧ w.getLsbD k = true) ∨
    ((w.toNat / 2 ^ 28 = 4 ∨ w.toNat / 2 ^ 28 = 5) ∧ ∃ k, k ≤ 27 ∧ w.getLsbD k = true) ∨
    (w.toNat / 2 ^ 28 = 6 ∧ w.getLsbD 27 = true)) ∧
  ∀ (w : Word) (s : State), Ready s → resetDue s = false → presentedWord s = some w → decode w = none →
    step s = .next
      { s with
        curOp := w, lastOp := BitVec.ofNat 4 (w.toNat / 2 ^ 28), result := .illegalOp,
        framer := .fIdle, sync := .sIdle, packer := .pIdle,
        env := { (readPort s).env with
          ops := s.env.ops.tail, now := s.env.now + 1,
          trace := s.env.trace ++ [⟨s.env.now, .done w .illegalOp⟩] } }

/-- 30_encoding.md R98: the word of each line of the assembly language, `.word n` among them, with its operands in their
fields, and the rejection of an operand that does not fit. -/
def Obligations.AssemblyLineWords : Prop :=
  (∀ b : Nat, b ≤ 255 →
    AsmLine.assemble (.cmd b) = some (BitVec.ofNat 32 (0x10000000 ||| b)) ∧
    AsmLine.assemble (.data b) = some (BitVec.ofNat 32 (0x20000000 ||| b)) ∧
    AsmLine.assemble (.fill b) = some (BitVec.ofNat 32 (0x70000000 ||| b))) ∧
  (∀ addr len : Nat, addr ≤ 16383 → len ≤ 16383 →
    AsmLine.assemble (.datab addr len) = some (BitVec.ofNat 32 (0x30000000 ||| len <<< 14 ||| addr))) ∧
  (∀ w h : Nat, w ≤ 8191 → h ≤ 8191 →
    AsmLine.assemble (.packFull w h) = some (BitVec.ofNat 32 (0x60000000 ||| w <<< 13 ||| h)) ∧
    AsmLine.assemble (.packSub w h) = some (BitVec.ofNat 32 (0x64000000 ||| w <<< 13 ||| h))) ∧
  AsmLine.assemble .wait = some 0x40000000 ∧ AsmLine.assemble .rstp = some 0x50000000 ∧
  (∀ n : Nat, n < 2 ^ 32 → AsmLine.assemble (.word n) = some (BitVec.ofNat 32 n)) ∧
  (∀ n : Nat, 2 ^ 32 ≤ n → AsmLine.assemble (.word n) = none) ∧
  (∀ b : Nat, 255 < b →
    AsmLine.assemble (.cmd b) = none ∧ AsmLine.assemble (.data b) = none ∧ AsmLine.assemble (.fill b) = none) ∧
  (∀ addr len : Nat, 16383 < addr ∨ 16383 < len → AsmLine.assemble (.datab addr len) = none) ∧
  (∀ w h : Nat, 8191 < w ∨ 8191 < h →
    AsmLine.assemble (.packFull w h) = none ∧ AsmLine.assemble (.packSub w h) = none)

/-! ### The step -/

/-- 30_encoding.md section 1: when the word the host presents decodes to an operation, a step of a ready block is exactly
the meaning of that operation, the word handed over; and so for the word `withFetchWord` places. -/
def Obligations.StepRunsPresentedOperation : Prop :=
  (∀ (s : State) (w : Word) (i : Instr), Ready s → resetDue s = false → presentedWord s = some w → decode w = some i →
    step s = exec i (takeWord s)) ∧
  ∀ (s : State) (w : Word) (i : Instr), legalCfg s.build s.cfg = true → decode w = some i →
    step (s.withFetchWord 32 w.toNat) = exec i (takeWord (s.withFetchWord 32 w.toNat))

/-! ### The framer -/

/-- 40_framer.md section 2 (CMD) with sections 1: when its four requests return ok, CMD frames its byte at the command level:
DC set, CS asserted, the byte transmitted, CS deasserted, each request issued in the tick the one before returned, and the
operation finishes OK in the tick the fourth returns. No memory, NOTIFY or RST effect. -/
def Obligations.CmdFramesOneCommandByte : Prop :=
  ∀ (b : Byte) (s : State) (a1 a2 a3 a4 : Answer) (rest : List Answer), Ready s → NoReset s →
    s.env.answers = a1 :: a2 :: a3 :: a4 :: rest →
    a1.ok = true ∧ a2.ok = true ∧ a3.ok = true ∧ a4.ok = true →
    ∃ t t1 t2 t3 t4, t1 = s.env.now + latency a1 ∧ t2 = t1 + latency a2 ∧ t3 = t2 + latency a3 ∧
      t4 = t3 + latency a4 ∧ exec (.cmd b) s = .next t ∧ t.result = .ok ∧ t.opState = .idle ∧ t.framer = .fIdle ∧
      t.dcSh = shadowOf s.cfg.dcCmdLevel ∧ t.csSh = shadowOf s.cfg.csActiveLevel.other ∧ t.rstSh = s.rstSh ∧
      t.curOp = encode (.cmd b) ∧ t.lastOp = 1 ∧ t.pbuf = s.pbuf ∧ t.src = s.src ∧ t.notify = s.notify ∧
      t.env.trace = s.env.trace ++ frameTrace s.cfg s.cfg.dcCmdLevel [b] s.env.now t1 t2 t3 t4 ++
        [⟨t4, .done (encode (.cmd b)) .ok⟩] ∧
      t.env.reached = s.env.reached ++ [b] ∧ t.env.now = t4 + 1

/-- 40_framer.md section 3 (DATA): the same frame at the other DC level. -/
def Obligations.DataFramesOneDataByte : Prop :=
  ∀ (b : Byte) (s : State) (a1 a2 a3 a4 : Answer) (rest : List Answer), Ready s → NoReset s →
    s.env.answers = a1 :: a2 :: a3 :: a4 :: rest →
    a1.ok = true ∧ a2.ok = true ∧ a3.ok = true ∧ a4.ok = true →
    ∃ t t1 t2 t3 t4, t1 = s.env.now + latency a1 ∧ t2 = t1 + latency a2 ∧ t3 = t2 + latency a3 ∧
      t4 = t3 + latency a4 ∧ exec (.data b) s = .next t ∧ t.result = .ok ∧ t.opState = .idle ∧ t.framer = .fIdle ∧
      t.dcSh = shadowOf s.cfg.dcCmdLevel.other ∧ t.csSh = shadowOf s.cfg.csActiveLevel.other ∧ t.rstSh = s.rstSh ∧
      t.curOp = encode (.data b) ∧ t.lastOp = 2 ∧ t.pbuf = s.pbuf ∧ t.src = s.src ∧ t.notify = s.notify ∧
      t.env.trace = s.env.trace ++ frameTrace s.cfg s.cfg.dcCmdLevel.other [b] s.env.now t1 t2 t3 t4 ++
        [⟨t4, .done (encode (.data b)) .ok⟩] ∧
      t.env.reached = s.env.reached ++ [b] ∧ t.env.now = t4 + 1

/-- 40_framer.md section 4 (DATAB): a range of written bytes within PBUF is framed in one Transmit, ascending, at the data
level; PBUF is read, not written. -/
def Obligations.DatabFramesBufferRange : Prop :=
  ∀ (len addr : BitVec 14) (bs : List Byte) (s : State) (a1 a2 a3 a4 : Answer) (rest : List Answer), Ready s →
    NoReset s → s.env.answers = a1 :: a2 :: a3 :: a4 :: rest →
    a1.ok = true ∧ a2.ok = true ∧ a3.ok = true ∧ a4.ok = true →
    1 ≤ len.toNat → addr.toNat + len.toNat ≤ s.build.pbufSize.toNat → bs.length = len.toNat →
    (∀ k, k < len.toNat → s.pbuf.read (addr.toNat + k) = bs[k]?) →
    ∃ t t1 t2 t3 t4, t1 = s.env.now + latency a1 ∧ t2 = t1 + latency a2 ∧ t3 = t2 + latency a3 ∧
      t4 = t3 + latency a4 ∧ exec (.datab len addr) s = .next t ∧ t.result = .ok ∧ t.opState = .idle ∧
      t.framer = .fIdle ∧ t.dcSh = shadowOf s.cfg.dcCmdLevel.other ∧ t.csSh = shadowOf s.cfg.csActiveLevel.other ∧
      t.rstSh = s.rstSh ∧ t.curOp = encode (.datab len addr) ∧ t.lastOp = 3 ∧ t.pbuf = s.pbuf ∧ t.src = s.src ∧
      t.notify = s.notify ∧
      t.env.trace = s.env.trace ++ frameTrace s.cfg s.cfg.dcCmdLevel.other bs s.env.now t1 t2 t3 t4 ++
        [⟨t4, .done (encode (.datab len addr)) .ok⟩] ∧
      t.env.reached = s.env.reached ++ bs ∧ t.env.now = t4 + 1

/-- 40_framer.md section 1, the failure of a frame at each of its four requests (95_test_vectors.md F3): no further request
is issued, in particular CS is not deasserted; a failed SetPin leaves that pin's shadow Unknown; the operation finishes in
the tick the failing request returns with TRANSPORT_FAILURE; of a failed Transmit a prefix of the environment's choosing
reached the panel. -/
def Obligations.FailedRequestEndsFrame : Prop :=
  ∀ (i : Instr) (l : Level) (bs : List Byte) (s : State) (a1 a2 a3 a4 : Answer) (rest : List Answer), Ready s →
    NoReset s → FrameOf s i l bs → s.env.answers = a1 :: a2 :: a3 :: a4 :: rest →
    ∀ t1 t2 t3 t4, t1 = s.env.now + latency a1 → t2 = t1 + latency a2 → t3 = t2 + latency a3 → t4 = t3 + latency a4 →
    (a1.ok = false → ∃ t, exec i s = .next t ∧ t.result = .transportFailure ∧ t.framer = .fIdle ∧
      t.dcSh = .unknown ∧ t.csSh = s.csSh ∧ t.rstSh = s.rstSh ∧ t.env.reached = s.env.reached ∧
      t.env.trace = s.env.trace ++ [⟨s.env.now, .request (.setPin .dc l) .err t1⟩,
        ⟨t1, .done (encode i) .transportFailure⟩] ∧ t.env.now = t1 + 1) ∧
    (a1.ok = true → a2.ok = false → ∃ t, exec i s = .next t ∧ t.result = .transportFailure ∧ t.framer = .fIdle ∧
      t.dcSh = shadowOf l ∧ t.csSh = .unknown ∧ t.rstSh = s.rstSh ∧ t.env.reached = s.env.reached ∧
      t.env.trace = s.env.trace ++ (frameTrace s.cfg l bs s.env.now t1 t2 t3 t4).take 1 ++
        [⟨t1, .request (.setPin .cs s.cfg.csActiveLevel) .err t2⟩, ⟨t2, .done (encode i) .transportFailure⟩] ∧
      t.env.now = t2 + 1) ∧
    (a1.ok = true → a2.ok = true → a3.ok = false → ∃ t, exec i s = .next t ∧ t.result = .transportFailure ∧
      t.framer = .fIdle ∧ t.dcSh = shadowOf l ∧ t.csSh = shadowOf s.cfg.csActiveLevel ∧ t.rstSh = s.rstSh ∧
      t.env.reached = s.env.reached ++ bs.take a3.delivered ∧
      t.env.trace = s.env.trace ++ (frameTrace s.cfg l bs s.env.now t1 t2 t3 t4).take 2 ++
        [⟨t2, .request (.transmit bs) .err t3⟩, ⟨t3, .done (encode i) .transportFailure⟩] ∧ t.env.now = t3 + 1) ∧
    (a1.ok = true → a2.ok = true → a3.ok = true → a4.ok = false → ∃ t, exec i s = .next t ∧
      t.result = .transportFailure ∧ t.framer = .fIdle ∧ t.dcSh = shadowOf l ∧ t.csSh = .unknown ∧ t.rstSh = s.rstSh ∧
      t.env.reached = s.env.reached ++ bs ∧
      t.env.trace = s.env.trace ++ (frameTrace s.cfg l bs s.env.now t1 t2 t3 t4).take 3 ++
        [⟨t3, .request (.setPin .cs s.cfg.csActiveLevel.other) .err t4⟩, ⟨t4, .done (encode i) .transportFailure⟩] ∧
      t.env.now = t4 + 1)

/-- 40_framer.md R131: DATAB with an empty range, or one that leaves PBUF, finishes in its acceptance tick with
INVALID_INPUT and has no other effect: the whole next state is written out. What a register read in the acceptance tick
returns, `readPort`, is the model's reading of 10_state.md R32 (log 8). -/
def Obligations.DatabBadRangeIsInvalidInput : Prop :=
  ∀ (len addr : BitVec 14) (s : State), Ready s →
    len.toNat = 0 ∨ s.build.pbufSize.toNat < addr.toNat + len.toNat →
    exec (.datab len addr) s = .next
      { s with
        curOp := encode (.datab len addr), lastOp := 3, result := .invalidInput,
        framer := .fIdle, sync := .sIdle, packer := .pIdle,
        env := { (readPort s).env with
          now := s.env.now + 1,
          trace := s.env.trace ++ [⟨s.env.now, .done (encode (.datab len addr)) .invalidInput⟩] } }

/-- 20_memory.md section 3 (R68) for DATAB: a range within PBUF with an unwritten byte is the model fault UNINIT: FAULTED is
set, the operation has no result. That the fault comes in the acceptance tick, before any request, is the model's reading (log
7) of R130, whose pseudocode reads the range before it frames it, and of vector F8. -/
def Obligations.DatabUnwrittenByteFaults : Prop :=
  ∀ (len addr : BitVec 14) (s : State), Ready s → 1 ≤ len.toNat →
    addr.toNat + len.toNat ≤ s.build.pbufSize.toNat →
    (∃ k, k < len.toNat ∧ s.pbuf.read (addr.toNat + k) = none) →
    ∃ a left, exec (.datab len addr) s = .fault (.uninitPbuf a left) ∧ addr.toNat ≤ a ∧ a < addr.toNat + len.toNat ∧
      s.pbuf.read a = none ∧ left.faulted = true ∧ left.result = .none ∧ left.opState = .busy ∧
      left.env.trace = s.env.trace ∧ left.env.outstanding = s.env.outstanding

/-- 40_framer.md section 5 (RSTP): with three requests that return ok, RST is set to the run level, held H ticks, set to the
other level, held D ticks, set to the run level, held H ticks, each hold counted from the tick the request before it
returned; then the operation finishes OK. DC, CS, NOTIFY and memory are untouched. -/
def Obligations.RstpDrivesDoublePulse : Prop :=
  ∀ (s : State) (a1 a2 a3 : Answer) (rest : List Answer), Ready s → NoReset s →
    s.env.answers = a1 :: a2 :: a3 :: rest → a1.ok = true ∧ a2.ok = true ∧ a3.ok = true →
    ∃ t r1 i2 r2 i3 r3, r1 = s.env.now + latency a1 ∧ i2 = r1 + s.cfg.rstHoldTicks.toNat ∧ r2 = i2 + latency a2 ∧
      i3 = r2 + s.cfg.rstDelayTicks.toNat ∧ r3 = i3 + latency a3 ∧
      exec .rstp s = .next t ∧ t.result = .ok ∧ t.opState = .idle ∧ t.framer = .fIdle ∧
      t.rstSh = shadowOf s.cfg.rstRunLevel ∧ t.dcSh = s.dcSh ∧ t.csSh = s.csSh ∧ t.notify = s.notify ∧
      t.pbuf = s.pbuf ∧ t.src = s.src ∧ t.curOp = 0x50000000 ∧ t.lastOp = 5 ∧
      t.env.trace = s.env.trace ++
        [⟨s.env.now, .request (.setPin .rst s.cfg.rstRunLevel) .ok r1⟩,
         ⟨i2, .request (.setPin .rst s.cfg.rstRunLevel.other) .ok r2⟩,
         ⟨i3, .request (.setPin .rst s.cfg.rstRunLevel) .ok r3⟩,
         ⟨r3 + s.cfg.rstHoldTicks.toNat, .done 0x50000000 .ok⟩] ∧
      t.env.now = r3 + s.cfg.rstHoldTicks.toNat + 1

/-- 40_framer.md sections 1 and 5 (95_test_vectors.md RP3 to RP5): the failure of RSTP at each of its three requests. -/
def Obligations.FailedRequestEndsPulse : Prop :=
  ∀ (s : State) (a1 a2 a3 : Answer) (rest : List Answer), Ready s → NoReset s →
    s.env.answers = a1 :: a2 :: a3 :: rest →
    ∀ r1 i2 r2 i3 r3, r1 = s.env.now + latency a1 → i2 = r1 + s.cfg.rstHoldTicks.toNat → r2 = i2 + latency a2 →
      i3 = r2 + s.cfg.rstDelayTicks.toNat → r3 = i3 + latency a3 →
    (a1.ok = false → ∃ t, exec .rstp s = .next t ∧ t.result = .transportFailure ∧ t.rstSh = .unknown ∧
      t.dcSh = s.dcSh ∧ t.csSh = s.csSh ∧ t.env.now = r1 + 1 ∧
      t.env.trace = s.env.trace ++ [⟨s.env.now, .request (.setPin .rst s.cfg.rstRunLevel) .err r1⟩,
        ⟨r1, .done 0x50000000 .transportFailure⟩]) ∧
    (a1.ok = true → a2.ok = false → ∃ t, exec .rstp s = .next t ∧ t.result = .transportFailure ∧ t.rstSh = .unknown ∧
      t.dcSh = s.dcSh ∧ t.csSh = s.csSh ∧ t.env.now = r2 + 1 ∧
      t.env.trace = s.env.trace ++ [⟨s.env.now, .request (.setPin .rst s.cfg.rstRunLevel) .ok r1⟩,
        ⟨i2, .request (.setPin .rst s.cfg.rstRunLevel.other) .err r2⟩, ⟨r2, .done 0x50000000 .transportFailure⟩]) ∧
    (a1.ok = true → a2.ok = true → a3.ok = false → ∃ t, exec .rstp s = .next t ∧ t.result = .transportFailure ∧
      t.rstSh = .unknown ∧ t.dcSh = s.dcSh ∧ t.csSh = s.csSh ∧ t.env.now = r3 + 1 ∧
      t.env.trace = s.env.trace ++ [⟨s.env.now, .request (.setPin .rst s.cfg.rstRunLevel) .ok r1⟩,
        ⟨i2, .request (.setPin .rst s.cfg.rstRunLevel.other) .ok r2⟩,
        ⟨i3, .request (.setPin .rst s.cfg.rstRunLevel) .err r3⟩, ⟨r3, .done 0x50000000 .transportFailure⟩])

/-- The frame of the framer's operations ("State written" of 40_framer.md sections 2 to 5), for every form and every result:
CMD, DATA and DATAB leave RST_SH and FCNT alone, RSTP leaves DC_SH and CS_SH alone, and all four leave every byte of PBUF,
every cell of SRC, the configuration, ELAPSED, SAMPLES, NOTIFY, FAULTED and the host's other ports alone. -/
def Obligations.FramerOperationFrame : Prop :=
  ∀ (i : Instr) (s t : State), (∃ b, i = .cmd b) ∨ (∃ b, i = .data b) ∨ (∃ n a, i = .datab n a) ∨ i = .rstp →
    NoReset s → exec i s = .next t →
    (∀ a, t.pbuf.read a = s.pbuf.read a) ∧ (∀ k, t.src.read k = s.src.read k) ∧ t.cfg = s.cfg ∧ t.build = s.build ∧
      t.elapsed = s.elapsed ∧ t.samples = s.samples ∧ t.notify = s.notify ∧ t.faulted = s.faulted ∧
      (i ≠ .rstp → t.rstSh = s.rstSh ∧ t.fcnt = s.fcnt) ∧ (i = .rstp → t.dcSh = s.dcSh ∧ t.csSh = s.csSh) ∧
      t.env.ops = s.env.ops ∧ t.env.txns = s.env.txns ∧ t.env.memReplies = s.env.memReplies

/-! ### The synchronizer -/

/-- 41_busy_sync.md section 2 (R168): if the first k samples read busy, none of them later than the deadline allows, and
the next one reads another level, WAIT finishes OK at that sample, in tick t0 + k × P; the samples are at t0, t0 + P, ...;
Notify(true) precedes and Notify(false) follows them where a callback is configured. And whatever BUSY does, no WAIT finishes
OK later than tick t0 + k_T × P with k_T = floor(T/P) + 1. That SAMPLES wraps at 2^32 samples is the model's reading of its
width (log 20). -/
def Obligations.WaitEndsAtReadySample : Prop :=
  (∀ (s : State) (k : Nat) (l : Level) (rest : List Level), Ready s → NoReset s →
    s.env.busyLevels = List.replicate k s.cfg.busyActiveLevel ++ l :: rest → l ≠ s.cfg.busyActiveLevel →
    (k = 0 ∨ (k - 1) * s.cfg.pollTicks.toNat ≤ s.cfg.timeoutTicks.toNat) →
    ∃ t tx, tx = s.env.now + k * s.cfg.pollTicks.toNat ∧ exec .wait s = .next t ∧ t.result = .ok ∧ t.opState = .idle ∧
      t.sync = .sIdle ∧ t.elapsed = k * s.cfg.pollTicks.toNat ∧ t.samples = BitVec.ofNat 32 (k + 1) ∧
      t.curOp = 0x40000000 ∧ t.lastOp = 4 ∧
      t.env.trace = s.env.trace ++ notifyEvent s.cfg s.env.now true ++
        samplesOf s.env.now s.cfg.pollTicks.toNat k s.cfg.busyActiveLevel ++ [⟨tx, .readPin l⟩] ++
        notifyEvent s.cfg tx false ++ [⟨tx, .done 0x40000000 .ok⟩] ∧
      t.env.now = tx + 1) ∧
  ∀ s t : State, NoReset s → exec .wait s = .next t → t.result = .ok →
    t.env.now ≤ s.env.now + (s.cfg.timeoutTicks.toNat / s.cfg.pollTicks.toNat + 1) * s.cfg.pollTicks.toNat + 1

/-- 41_busy_sync.md R167: with BUSY reading the active level at every sample, WAIT finishes with TIMEOUT at sample number
floor(T/P) + 1, after floor(T/P) + 2 samples, and its elapsed time lies strictly after T and no later than T + P. That
SAMPLES wraps at 2^32 samples (P = 1, T = 2^32 - 1) is the model's reading of its width (log 20). -/
def Obligations.WaitTimesOutWithinOnePoll : Prop :=
  ∀ (s : State) (rest : List Level), Ready s → NoReset s →
    s.env.busyLevels = List.replicate (s.cfg.timeoutTicks.toNat / s.cfg.pollTicks.toNat + 2) s.cfg.busyActiveLevel ++
      rest →
    ∃ t kT tx, kT = s.cfg.timeoutTicks.toNat / s.cfg.pollTicks.toNat + 1 ∧
      tx = s.env.now + kT * s.cfg.pollTicks.toNat ∧ exec .wait s = .next t ∧ t.result = .timeout ∧ t.opState = .idle ∧
      t.elapsed = kT * s.cfg.pollTicks.toNat ∧ t.samples = BitVec.ofNat 32 (kT + 1) ∧
      s.cfg.timeoutTicks.toNat < t.elapsed ∧ t.elapsed ≤ s.cfg.timeoutTicks.toNat + s.cfg.pollTicks.toNat ∧
      t.env.trace = s.env.trace ++ notifyEvent s.cfg s.env.now true ++
        samplesOf s.env.now s.cfg.pollTicks.toNat (kT + 1) s.cfg.busyActiveLevel ++
        notifyEvent s.cfg tx false ++ [⟨tx, .done 0x40000000 .timeout⟩] ∧
      t.env.now = tx + 1

/-- 41_busy_sync.md section 1 (R161, R166): whatever BUSY does, a WAIT records exactly one Notify(true), in its acceptance
tick, and exactly one Notify(false), in its exit tick, in that order, where a callback is configured, and none where none
is; NOTIFY is 0 after it. -/
def Obligations.WaitNotifiesTrueThenFalse : Prop :=
  ∀ s t : State, NoReset s → exec .wait s = .next t →
    ∃ new, t.env.trace = s.env.trace ++ new ∧
      new.filter isNotify = notifyEvent s.cfg s.env.now true ++ notifyEvent s.cfg (t.env.now - 1) false ∧
      (s.cfg.notifyEn = true → t.notify = false) ∧ (s.cfg.notifyEn = false → t.notify = s.notify)

/-- 41_busy_sync.md section 1 ("State written", "Results" of R160): whatever BUSY does, WAIT finishes with OK or TIMEOUT;
it issues no transport request and leaves the shadows, FCNT, the memories, the configuration and the host's other ports
alone. -/
def Obligations.WaitFrameAndResults : Prop :=
  ∀ s t : State, NoReset s → exec .wait s = .next t →
    (t.result = .ok ∨ t.result = .timeout) ∧
      (∃ new, t.env.trace = s.env.trace ++ new ∧ new.filter isRequest = []) ∧
      t.dcSh = s.dcSh ∧ t.csSh = s.csSh ∧ t.rstSh = s.rstSh ∧ t.fcnt = s.fcnt ∧
      (∀ a, t.pbuf.read a = s.pbuf.read a) ∧ (∀ k, t.src.read k = s.src.read k) ∧ t.cfg = s.cfg ∧ t.build = s.build ∧
      t.faulted = s.faulted ∧ t.env.reached = s.env.reached ∧ t.env.ops = s.env.ops ∧ t.env.txns = s.env.txns ∧
      t.env.memReplies = s.env.memReplies

/-! ### The packer -/

/-- 42_packer.md sections 1 and 2 (PACK.FULL, unrotated): when the image has the panel's size and every source cell is
written, PACK.FULL finishes OK; source pixel (x, y) is at bit 7 - (x mod 8) of byte x/8 + y × STRIDE with the configured
polarity; padding bits are 0; every byte of the buffer is written and no byte above it changes. -/
def Obligations.PackFullPlacesEveryPixel : Prop :=
  ∀ (w h : BitVec 13) (s : State), Ready s → NoReset s → w = s.cfg.pw → h = s.cfg.ph →
    SourceWritten s w.toNat h.toNat →
    ∃ t n, 1 ≤ n ∧ exec (.packFull w h) s = .next t ∧ t.result = .ok ∧ t.opState = .idle ∧ t.packer = .pIdle ∧
      t.cfg = s.cfg ∧ t.lastOp = 6 ∧
      (∀ x y d, x < s.cfg.pw.toNat → y < s.cfg.ph.toNat → s.src.read (srcKey x y) = some d →
        PixelIs t x y (bitval s.cfg.polarity d)) ∧
      (∀ dx dy, s.cfg.pw.toNat ≤ dx → dx < 8 * ((s.cfg.pw.toNat + 7) / 8) → dy < s.cfg.ph.toNat →
        PixelIs t dx dy false) ∧
      (∀ a, (s.cfg.pw.toNat + 7) / 8 * s.cfg.ph.toNat ≤ a → t.pbuf.read a = s.pbuf.read a) ∧
      t.env.trace = s.env.trace ++ [⟨s.env.now + n, .done (encode (.packFull w h)) .ok⟩] ∧
      t.env.now = s.env.now + n + 1

/-- 42_packer.md sections 1 and 2 (PACK.FULL, rotated; the formula as 90_conflicts.md C1 corrects it): when the image has the
panel's transposed size and not its size, source pixel (x, y) is at panel pixel (PW - 1 - y, x), for every pixel of the
source. -/
def Obligations.PackFullRotatesTransposedImage : Prop :=
  ∀ (w h : BitVec 13) (s : State), Ready s → NoReset s → w = s.cfg.ph → h = s.cfg.pw →
    ¬ (w = s.cfg.pw ∧ h = s.cfg.ph) → SourceWritten s w.toNat h.toNat →
    ∃ t n, 1 ≤ n ∧ exec (.packFull w h) s = .next t ∧ t.result = .ok ∧ t.opState = .idle ∧ t.packer = .pIdle ∧
      t.cfg = s.cfg ∧
      (∀ x y d, x < s.cfg.ph.toNat → y < s.cfg.pw.toNat → s.src.read (srcKey x y) = some d →
        PixelIs t (s.cfg.pw.toNat - 1 - y) x (bitval s.cfg.polarity d)) ∧
      (∀ dx dy, s.cfg.pw.toNat ≤ dx → dx < 8 * ((s.cfg.pw.toNat + 7) / 8) → dy < s.cfg.ph.toNat →
        PixelIs t dx dy false) ∧
      (∀ a, (s.cfg.pw.toNat + 7) / 8 * s.cfg.ph.toNat ≤ a → t.pbuf.read a = s.pbuf.read a) ∧
      t.env.trace = s.env.trace ++ [⟨s.env.now + n, .done (encode (.packFull w h)) .ok⟩] ∧
      t.env.now = s.env.now + n + 1

/-- 42_packer.md section 2 (R196): a size that is neither the panel's nor its transpose is INVALID_INPUT in the acceptance
tick, with no other effect: the whole next state is written out. What a register read in the acceptance tick returns,
`readPort`, is the model's reading of 10_state.md R32 (log 8). -/
def Obligations.PackFullOtherSizeIsInvalidInput : Prop :=
  ∀ (w h : BitVec 13) (s : State), Ready s → ¬ (w = s.cfg.pw ∧ h = s.cfg.ph) → ¬ (w = s.cfg.ph ∧ h = s.cfg.pw) →
    exec (.packFull w h) s = .next
      { s with
        curOp := encode (.packFull w h), lastOp := 6, result := .invalidInput,
        framer := .fIdle, sync := .sIdle, packer := .pIdle,
        env := { (readPort s).env with
          now := s.env.now + 1,
          trace := s.env.trace ++ [⟨s.env.now, .done (encode (.packFull w h)) .invalidInput⟩] } }

/-- 42_packer.md section 3 (PACK.SUB): a sub-image within the source grid, every cell written, is packed unrotated at the top
left of the buffer at the panel's stride; a source pixel outside the panel is dropped; every other bit of the buffer is 0; no
byte above the buffer changes. W = 0 or H = 0 packs no pixel. -/
def Obligations.PackSubPlacesAndDrops : Prop :=
  ∀ (w h : BitVec 13) (s : State), Ready s → NoReset s → w.toNat ≤ s.build.srcWMax.toNat →
    h.toNat ≤ s.build.srcHMax.toNat → SourceWritten s w.toNat h.toNat →
    ∃ t n, 1 ≤ n ∧ exec (.packSub w h) s = .next t ∧ t.result = .ok ∧ t.opState = .idle ∧ t.packer = .pIdle ∧
      t.cfg = s.cfg ∧
      (∀ x y d, x < w.toNat → y < h.toNat → x < s.cfg.pw.toNat → y < s.cfg.ph.toNat →
        s.src.read (srcKey x y) = some d → PixelIs t x y (bitval s.cfg.polarity d)) ∧
      (∀ dx dy, dx < 8 * ((s.cfg.pw.toNat + 7) / 8) → dy < s.cfg.ph.toNat →
        ¬ (dx < w.toNat ∧ dy < h.toNat ∧ dx < s.cfg.pw.toNat) → PixelIs t dx dy false) ∧
      (∀ a, (s.cfg.pw.toNat + 7) / 8 * s.cfg.ph.toNat ≤ a → t.pbuf.read a = s.pbuf.read a) ∧
      t.env.trace = s.env.trace ++ [⟨s.env.now + n, .done (encode (.packSub w h)) .ok⟩] ∧
      t.env.now = s.env.now + n + 1

/-- 42_packer.md R202: PACK.SUB of a sub-image that is not in SRC is INVALID_INPUT in the acceptance tick, with no other
effect: the whole next state is written out. What a register read in the acceptance tick returns, `readPort`, is the model's
reading of 10_state.md R32 (log 8). -/
def Obligations.PackSubOutsideSourceIsInvalidInput : Prop :=
  ∀ (w h : BitVec 13) (s : State), Ready s →
    s.build.srcWMax.toNat < w.toNat ∨ s.build.srcHMax.toNat < h.toNat →
    exec (.packSub w h) s = .next
      { s with
        curOp := encode (.packSub w h), lastOp := 6, result := .invalidInput,
        framer := .fIdle, sync := .sIdle, packer := .pIdle,
        env := { (readPort s).env with
          now := s.env.now + 1,
          trace := s.env.trace ++ [⟨s.env.now, .done (encode (.packSub w h)) .invalidInput⟩] } }

/-- 20_memory.md section 3 (R68) for the packs: a PACK that passes its size check and would read an unwritten source cell,
also one it would drop, is the model fault UNINIT: FAULTED is set, there is no result, PST is P_RUN (R195, R200 set it before
they read SRC). That the fault comes in the acceptance tick and before any byte of PBUF is written is the model's reading (log
7) of R191 and 20_memory.md R73, by which the writes are defined as a whole at the finish. -/
def Obligations.PackUnwrittenCellFaults : Prop :=
  ∀ (i : Instr) (w h : BitVec 13) (s : State), Ready s →
    (i = .packFull w h ∧ ((w = s.cfg.pw ∧ h = s.cfg.ph) ∨ (w = s.cfg.ph ∧ h = s.cfg.pw))) ∨
      (i = .packSub w h ∧ w.toNat ≤ s.build.srcWMax.toNat ∧ h.toNat ≤ s.build.srcHMax.toNat) →
    (∃ x y, x < w.toNat ∧ y < h.toNat ∧ s.src.read (srcKey x y) = none) →
    ∃ x y left, exec i s = .fault (.uninitSrc x y left) ∧ x < w.toNat ∧ y < h.toNat ∧
      s.src.read (srcKey x y) = none ∧ left.faulted = true ∧ left.result = .none ∧ left.opState = .busy ∧
      left.packer = .pRun ∧ left.pbuf = s.pbuf ∧ left.env.trace = s.env.trace

/-- 42_packer.md section 4 (FILL): every byte of the buffer, padding bits included, is the operand byte; no byte above it
changes; SRC is not needed; the result is OK. -/
def Obligations.FillWritesWholeBuffer : Prop :=
  ∀ (b : Byte) (s : State), Ready s → NoReset s →
    ∃ t n, 1 ≤ n ∧ exec (.fill b) s = .next t ∧ t.result = .ok ∧ t.opState = .idle ∧ t.packer = .pIdle ∧
      t.lastOp = 7 ∧
      (∀ a, a < (s.cfg.pw.toNat + 7) / 8 * s.cfg.ph.toNat → t.pbuf.read a = some b) ∧
      (∀ a, (s.cfg.pw.toNat + 7) / 8 * s.cfg.ph.toNat ≤ a → t.pbuf.read a = s.pbuf.read a) ∧ t.src = s.src ∧
      t.env.trace = s.env.trace ++ [⟨s.env.now + n, .done (encode (.fill b)) .ok⟩] ∧ t.env.now = s.env.now + n + 1

/-- The frame of the packer's operations ("State written" of 42_packer.md sections 2 to 4, R191, R192), for every form and
every result: no event but Done, no shadow, counter, NOTIFY, SRC cell or configuration changes, and no byte of PBUF at L or
above changes. -/
def Obligations.PackerOperationFrame : Prop :=
  ∀ (i : Instr) (s t : State), (∃ w h, i = .packFull w h) ∨ (∃ w h, i = .packSub w h) ∨ (∃ b, i = .fill b) →
    NoReset s → exec i s = .next t →
    (∀ a, (s.cfg.pw.toNat + 7) / 8 * s.cfg.ph.toNat ≤ a → t.pbuf.read a = s.pbuf.read a) ∧
      (∀ k, t.src.read k = s.src.read k) ∧ t.cfg = s.cfg ∧ t.build = s.build ∧ t.dcSh = s.dcSh ∧ t.csSh = s.csSh ∧
      t.rstSh = s.rstSh ∧ t.fcnt = s.fcnt ∧ t.elapsed = s.elapsed ∧ t.samples = s.samples ∧ t.notify = s.notify ∧
      t.faulted = s.faulted ∧ t.env.reached = s.env.reached ∧ t.env.ops = s.env.ops ∧ t.env.txns = s.env.txns ∧
      t.env.memReplies = s.env.memReplies ∧
      t.env.trace = s.env.trace ++ [⟨t.env.now - 1, .done (encode i) t.result⟩]

/-- 42_packer.md R210 and R211 (the thresholds): with 8-bit channels a sample is dark exactly when r + g + b ≤ 382, with
16-bit channels exactly when r + g + b ≤ 98302. -/
def Obligations.ClassificationThresholds : Prop :=
  (∀ (c : Cfg) (r g b : BitVec 16), c.ch16 = false → r.toNat ≤ 255 → g.toNat ≤ 255 → b.toNat ≤ 255 →
    (classify c r g b = true ↔ r.toNat + g.toNat + b.toNat ≤ 382)) ∧
  ∀ (c : Cfg) (r g b : BitVec 16), c.ch16 = true →
    (classify c r g b = true ↔ r.toNat + g.toNat + b.toNat ≤ 98302)

/-- 42_packer.md R206: LIGHT_BYTE and DARK_BYTE of each polarity; every pixel of LIGHT_BYTE is light and every pixel of
DARK_BYTE is dark, under either polarity. -/
def Obligations.LightAndDarkBytes : Prop :=
  (lightByte .darkIsOne = 0x00 ∧ lightByte .lightIsOne = 0xFF ∧ darkByte .darkIsOne = 0xFF ∧
    darkByte .lightIsOne = 0x00) ∧
  ∀ (p : Polarity) (k : Nat), k < 8 →
    (lightByte p).getLsbD k = bitval p false ∧ (darkByte p).getLsbD k = bitval p true

/-! ### The host's ports -/

/-- 20_memory.md section 1 (R64): the memory port's writes. The written byte or cell reads as written, a true-colour sample
as its classification, every other byte and cell as before, and the port answers without MERR. The rest of the state is as
before but for the register port and the tick (`OnlyPortsMoved`). -/
def Obligations.MemoryPortWrites : Prop :=
  (∀ (s : State) (a : Nat) (v : Byte), PortServes s (.pbWr a v) → a < s.build.pbufSize.toNat →
    ∃ t, step s = .next t ∧ t.pbuf.read a = some v ∧ (∀ b, b ≠ a → t.pbuf.read b = s.pbuf.read b) ∧ t.src = s.src ∧
      t.env.memReplies = s.env.memReplies ++ [⟨s.env.now, none, false⟩] ∧ t.env.txns = s.env.txns.tail ∧
      OnlyPortsMoved s t) ∧
  (∀ (s : State) (x y : Nat) (d : Bool), PortServes s (.srcWr x y d) → x < s.build.srcWMax.toNat →
    y < s.build.srcHMax.toNat →
    ∃ t, step s = .next t ∧ t.src.read (srcKey x y) = some d ∧
      (∀ x' y', x' < s.build.srcWMax.toNat → ¬ (x' = x ∧ y' = y) →
        t.src.read (srcKey x' y') = s.src.read (srcKey x' y')) ∧ t.pbuf = s.pbuf ∧
      t.env.memReplies = s.env.memReplies ++ [⟨s.env.now, none, false⟩] ∧ t.env.txns = s.env.txns.tail ∧
      OnlyPortsMoved s t) ∧
  ∀ (s : State) (x y : Nat) (r g b : BitVec 16), PortServes s (.srcWrRgb x y r g b) → x < s.build.srcWMax.toNat →
    y < s.build.srcHMax.toNat →
    ∃ t, step s = .next t ∧ t.src.read (srcKey x y) = some (classify s.cfg r g b) ∧
      (∀ x' y', x' < s.build.srcWMax.toNat → ¬ (x' = x ∧ y' = y) →
        t.src.read (srcKey x' y') = s.src.read (srcKey x' y')) ∧ t.pbuf = s.pbuf ∧
      t.env.memReplies = s.env.memReplies ++ [⟨s.env.now, none, false⟩] ∧ t.env.txns = s.env.txns.tail ∧
      OnlyPortsMoved s t

/-- 20_memory.md sections 1 and 3 (R64, R68, R69): the memory port's reads. A written byte or cell is returned and no memory
changes, nor anything else but the register port and the tick (`OnlyPortsMoved`); an unwritten one is the model fault UNINIT,
which leaves the memories as they are. -/
def Obligations.MemoryPortReads : Prop :=
  (∀ (s : State) (a : Nat) (v : Byte), PortServes s (.pbRd a) → a < s.build.pbufSize.toNat →
    s.pbuf.read a = some v →
    ∃ t, step s = .next t ∧ t.pbuf = s.pbuf ∧ t.src = s.src ∧
      t.env.memReplies = s.env.memReplies ++ [⟨s.env.now, some v, false⟩] ∧ t.env.txns = s.env.txns.tail ∧
      OnlyPortsMoved s t) ∧
  (∀ (s : State) (x y : Nat) (d : Bool), PortServes s (.srcRd x y) → x < s.build.srcWMax.toNat →
    y < s.build.srcHMax.toNat → s.src.read (srcKey x y) = some d →
    ∃ t, step s = .next t ∧ t.pbuf = s.pbuf ∧ t.src = s.src ∧
      t.env.memReplies = s.env.memReplies ++ [⟨s.env.now, some (if d then 1 else 0), false⟩] ∧
      t.env.txns = s.env.txns.tail ∧ OnlyPortsMoved s t) ∧
  (∀ (s : State) (a : Nat), PortServes s (.pbRd a) → a < s.build.pbufSize.toNat → s.pbuf.read a = none →
    ∃ left, step s = .fault (.uninitPbuf a left) ∧ left.faulted = true ∧ left.pbuf = s.pbuf ∧ left.src = s.src) ∧
  ∀ (s : State) (x y : Nat), PortServes s (.srcRd x y) → x < s.build.srcWMax.toNat → y < s.build.srcHMax.toNat →
    s.src.read (srcKey x y) = none →
    ∃ left, step s = .fault (.uninitSrc x y left) ∧ left.faulted = true ∧ left.pbuf = s.pbuf ∧ left.src = s.src

/-- 20_memory.md R65: a transaction outside the memories has no effect on any memory, a read returns 0, and MERR is 1; every
other transaction that is answered has MERR 0. The rest of the state is as before but for the register port and the tick
(`OnlyPortsMoved`). -/
def Obligations.OutOfRangeTransactionHasNoEffect : Prop :=
  (∀ (s : State) (x : MemTxn) (data : Option Byte), PortServes s x →
    (∃ a v, x = .pbWr a v ∧ s.build.pbufSize.toNat ≤ a ∧ data = none) ∨
      (∃ a, x = .pbRd a ∧ s.build.pbufSize.toNat ≤ a ∧ data = some 0) ∨
      (∃ u v d, x = .srcWr u v d ∧ (s.build.srcWMax.toNat ≤ u ∨ s.build.srcHMax.toNat ≤ v) ∧ data = none) ∨
      (∃ u v r g b, x = .srcWrRgb u v r g b ∧ (s.build.srcWMax.toNat ≤ u ∨ s.build.srcHMax.toNat ≤ v) ∧ data = none) ∨
      (∃ u v, x = .srcRd u v ∧ (s.build.srcWMax.toNat ≤ u ∨ s.build.srcHMax.toNat ≤ v) ∧ data = some 0) →
    ∃ t, step s = .next t ∧ t.pbuf = s.pbuf ∧ t.src = s.src ∧
      t.env.memReplies = s.env.memReplies ++ [⟨s.env.now, data, true⟩] ∧ t.env.txns = s.env.txns.tail ∧
      OnlyPortsMoved s t) ∧
  ∀ (s t : State) (x : MemTxn), PortServes s x → step s = .next t →
    (∃ a, (x = .pbRd a ∨ ∃ v, x = .pbWr a v) ∧ a < s.build.pbufSize.toNat) ∨
      (∃ u v, (x = .srcRd u v ∨ (∃ d, x = .srcWr u v d) ∨ ∃ r g b, x = .srcWrRgb u v r g b) ∧
        u < s.build.srcWMax.toNat ∧ v < s.build.srcHMax.toNat) →
    ∃ data, t.env.memReplies = s.env.memReplies ++ [⟨s.env.now, data, false⟩]

/-- 20_memory.md section 1 (R64, R72): while an operation is accepted and runs, the memory port holds every transaction: none
is performed, none is lost, none is answered. -/
def Obligations.MemoryPortHeldDuringOperation : Prop :=
  ∀ (i : Instr) (s t : State), exec i s = .next t →
    t.env.txns = s.env.txns ∧ t.env.memReplies = s.env.memReplies

/-- 10_state.md R33 and R34: the fields of STATUS, as one number; OPBUSY, RESULT with the codes of R34, NOTIFY and LASTOP,
every other bit 0. -/
def Obligations.StatusRegisterFields : Prop :=
  ∀ s : State, (readReg s 0).toNat =
    (if s.opState = .busy then 1 else 0) +
      2 * (match s.result with
        | .none => 0
        | .ok => 1
        | .timeout => 2
        | .transportFailure => 3
        | .invalidInput => 4
        | .illegalOp => 5) +
      16 * (if s.notify then 1 else 0) +
      256 * s.lastOp.toNat

/-- 10_state.md sections 6 (R35 to R41) and R32: the other registers as numbers, the shadows of PINSH with the codes of R38,
the reserved addresses reading 0. -/
def Obligations.RegisterMap : Prop :=
  ∀ (s : State) (code : Shadow → Nat), code .low = 0 → code .high = 1 → code .unknown = 2 →
    readReg s 1 = s.cfg.pollTicks ∧ readReg s 2 = s.cfg.timeoutTicks ∧ readReg s 3 = s.cfg.rstHoldTicks ∧
    readReg s 4 = s.cfg.rstDelayTicks ∧
    (readReg s 5).toNat = s.cfg.pw.toNat + 65536 * s.cfg.ph.toNat ∧
    (readReg s 6).toNat = (if s.cfg.dcCmdLevel = .high then 1 else 0) + (if s.cfg.csActiveLevel = .high then 2 else 0) +
      (if s.cfg.rstRunLevel = .high then 4 else 0) + (if s.cfg.busyActiveLevel = .high then 8 else 0) +
      (if s.cfg.polarity = .lightIsOne then 16 else 0) + (if s.cfg.notifyEn then 32 else 0) +
      (if s.cfg.ch16 then 64 else 0) ∧
    (readReg s 7).toNat = code s.dcSh + 4 * code s.csSh + 16 * code s.rstSh ∧
    (readReg s 8).toNat = s.elapsed % 2 ^ 32 ∧ readReg s 9 = s.samples ∧
    (readReg s 10).toNat = s.build.pbufSize.toNat ∧
    (readReg s 11).toNat = s.build.srcWMax.toNat + 65536 * s.build.srcHMax.toNat ∧
    readReg s 12 = 0 ∧ readReg s 13 = 0 ∧ readReg s 14 = 0 ∧ readReg s 15 = 0

/-- 10_state.md section 6 (R32): a register read the host makes by the tick of a step is answered in that tick, with the
value of the register at the start of the tick (the model's reading of R32 for a tick that also changes state: log 8). -/
def Obligations.RegisterReadReturnsStartOfTickValue : Prop :=
  ∀ (s t : State) (tk : Nat) (ra : BitVec 4) (rest : List (Nat × BitVec 4)), Ready s → resetDue s = false →
    s.env.regReads = (tk, ra) :: rest → tk ≤ s.env.now → step s = .next t →
    ∃ more, t.env.regReplies = s.env.regReplies ++ ⟨s.env.now, ra, readReg s ra⟩ :: more

/-- 10_state.md section 6 (R32), "A read has no side effect, may be done in any tick": whatever register reads the host makes
in whatever ticks, also during an operation, a step answers the same without them, next state, fault or refusal, but for the
reads themselves. -/
def Obligations.RegisterReadsHaveNoSideEffect : Prop :=
  ∀ s : State, eraseReadsOutcome (step (eraseReads s)) = eraseReadsOutcome (step s)

/-- 10_state.md section 6 (R32, R33): a STATUS read in a tick in which an operation is in progress at the start of the tick
returns OPBUSY = 1, RESULT = NONE, the operation's LASTOP, and NOTIFY = 1 if the operation is a WAIT under NOTIFY_EN = 1
(41_busy_sync.md R161, R166), else NOTIFY as it was; every other bit is 0. -/
def Obligations.StatusReadsBusyDuringOperation : Prop :=
  ∀ (i : Instr) (s t : State) (k : Nat), NoReset s → s.env.regReads = [(s.env.now + k, 0)] → 1 ≤ k →
    exec i s = .next t → s.env.now + k < t.env.now →
    ∃ v : BitVec 32, t.env.regReplies = s.env.regReplies ++ [⟨s.env.now + k, 0, v⟩] ∧
      v.toNat = 1 + 16 * (if i = .wait ∧ s.cfg.notifyEn = true ∨ s.notify = true then 1 else 0) +
        256 * ((encode i).toNat / 2 ^ 28)

/-! ### Results, errors and the whole machine -/

/-- 60_exceptions.md section 1 (R280): every accepted operation finishes exactly once with one result code: after it OPSTATE
is IDLE, the three engines are idle, RESULT is not NONE, and the observation ends in the operation's one Done event, in its
finishing tick. (R296's fairness of the transport is part of the model: log 16.) -/
def Obligations.EveryOperationFinishesOnce : Prop :=
  ∀ (i : Instr) (s t : State), NoReset s → exec i s = .next t →
    t.opState = .idle ∧ t.framer = .fIdle ∧ t.sync = .sIdle ∧ t.packer = .pIdle ∧ t.result ≠ .none ∧
      t.curOp = encode i ∧ s.env.now < t.env.now ∧
      ∃ new, t.env.trace = s.env.trace ++ new ++ [⟨t.env.now - 1, .done (encode i) t.result⟩] ∧
        new.filter isDone = []

/-- Every operation completes, whatever the transport answers, whatever BUSY does, and however long the packer takes: a
ready block that no reset disturbs answers a next state, with the operation finished, provided what the operation reads is
written (20_memory.md R68): DATAB's range where it passes R131, PACK.FULL's image where it passes R196, PACK.SUB's where it
passes R202. That every request and every pack comes to an end is the spec's own assumption (R296, log 16). -/
def Obligations.EveryReadyOperationCompletes : Prop :=
  ∀ (i : Instr) (s : State), Ready s → NoReset s →
    (∀ len addr, i = .datab len addr → 1 ≤ len.toNat → addr.toNat + len.toNat ≤ s.build.pbufSize.toNat →
      ∀ k, k < len.toNat → (s.pbuf.read (addr.toNat + k)).isSome = true) →
    (∀ w h, i = .packFull w h → (w = s.cfg.pw ∧ h = s.cfg.ph) ∨ (w = s.cfg.ph ∧ h = s.cfg.pw) →
      SourceWritten s w.toNat h.toNat) →
    (∀ w h, i = .packSub w h → w.toNat ≤ s.build.srcWMax.toNat → h.toNat ≤ s.build.srcHMax.toNat →
      SourceWritten s w.toNat h.toNat) →
    ∃ t, exec i s = .next t ∧ t.opState = .idle ∧ t.result ≠ .none ∧ t.curOp = encode i ∧
      t.lastOp = fieldOp (encode i) ∧ t.faulted = s.faulted

/-- 60_exceptions.md section 1 (R281 to R285): which operations can raise which results. -/
def Obligations.ResultsByOperation : Prop :=
  ∀ (i : Instr) (s t : State), NoReset s → exec i s = .next t →
    t.result ≠ .none ∧ t.result ≠ .illegalOp ∧ (t.result = .timeout → i = .wait) ∧
      (t.result = .transportFailure → (∃ b, i = .cmd b) ∨ (∃ b, i = .data b) ∨ (∃ n a, i = .datab n a) ∨ i = .rstp) ∧
      (t.result = .invalidInput → (∃ n a, i = .datab n a) ∨ (∃ w h, i = .packFull w h) ∨ ∃ w h, i = .packSub w h)

/-- 70_reset_and_hazards.md section 3 (R335): how long an operation takes, from its acceptance tick to its finishing tick
(one tick before the state it leaves). -/
def Obligations.OperationDurations : Prop :=
  ∀ (i : Instr) (s t : State), NoReset s → exec i s = .next t →
    (t.result = .invalidInput → t.env.now = s.env.now + 1) ∧
    (t.result = .timeout → t.env.now = s.env.now +
      (s.cfg.timeoutTicks.toNat / s.cfg.pollTicks.toNat + 1) * s.cfg.pollTicks.toNat + 1) ∧
    (t.result = .transportFailure → s.env.now + 1 < t.env.now) ∧
    (t.result = .ok → match i with
      | .cmd _ => s.env.now + 4 + 1 ≤ t.env.now
      | .data _ => s.env.now + 4 + 1 ≤ t.env.now
      | .datab _ _ => s.env.now + 4 + 1 ≤ t.env.now
      | .rstp => s.env.now + 3 + 2 * s.cfg.rstHoldTicks.toNat + s.cfg.rstDelayTicks.toNat + 1 ≤ t.env.now
      | .wait => ∃ k, t.env.now = s.env.now + k * s.cfg.pollTicks.toNat + 1
      | .packFull _ _ => s.env.now + 1 + 1 ≤ t.env.now
      | .packSub _ _ => s.env.now + 1 + 1 ≤ t.env.now
      | .fill _ => s.env.now + 1 + 1 ≤ t.env.now)

/-- The canonical and in-range form of the memories (20_memory.md R60, R62) is kept by every step, from every state that has
it. -/
def Obligations.MemoriesStayCanonical : Prop :=
  ∀ s t : State, MemInv s → step s = .next t → MemInv t

/-- 10_state.md R28 and R30, 60_exceptions.md R280, 41_busy_sync.md R166: from a state with no operation in progress every
step, also one that runs an operation and one a reset disturbs, leads to a state with no operation in progress, the engines
idle, no request outstanding, NOTIFY 0. -/
def Obligations.StepEndsIdle : Prop :=
  ∀ s t : State, IdleInv s → step s = .next t → IdleInv t

/-- The invariants hold right after reset, whatever the build and the configuration input. -/
def Obligations.ResetMeetsInvariants : Prop :=
  ∀ (b : Build) (c : Cfg), MemInv (State.afterReset b c) ∧ IdleInv (State.afterReset b c) ∧
    GoodEnd (State.afterReset b c) ∧ MemInv State.reset ∧ IdleInv State.reset

/-- 10_state.md R22: "CFG does not change between resets. No operation and no port writes it.": whatever a step does, if it
takes no reset from the host's schedule it leaves CFG alone; where the host asserts none, there is none to take. -/
def Obligations.ConfigurationFixedBetweenResets : Prop :=
  ∀ s t : State, step s = .next t →
    t.build = s.build ∧ (t.env.resets = s.env.resets → t.cfg = s.cfg) ∧ (NoReset s → t.cfg = s.cfg ∧ NoReset t)

/-- 70_reset_and_hazards.md section 1 and 10_state.md R44: a tick in which the reset is asserted loads CFG from the
configuration input and gives every other piece of state its reset value; it sets no pin, answers no port and issues no
request; FAULTED and the build parameters stay. That the values are taken in the tick in which the reset is asserted, and that
the reset wins over every port in that tick, is the model's choice (log 14). -/
def Obligations.ResetTickGivesResetValues : Prop :=
  ∀ (s : State) (r : Nat) (c : Cfg) (rest : List (Nat × Cfg)),
    legalCfg s.build s.cfg = true → s.env.resets = (r, c) :: rest → r ≤ s.env.now → s.env.outstanding = none →
    ∃ t, step s = .next t ∧ t.cfg = c ∧ t.build = s.build ∧ t.opState = .idle ∧ t.curOp = 0 ∧ t.result = .none ∧
      t.lastOp = 0 ∧ t.framer = .fIdle ∧ t.fcnt = 0 ∧ t.sync = .sIdle ∧ t.elapsed = 0 ∧ t.samples = 0 ∧
      t.notify = false ∧ t.packer = .pIdle ∧ t.dcSh = .unknown ∧ t.csSh = .unknown ∧ t.rstSh = .unknown ∧
      (∀ a, t.pbuf.read a = none) ∧ (∀ k, t.src.read k = none) ∧ t.faulted = s.faulted ∧ t.env.trace = s.env.trace ∧
      t.env.ops = s.env.ops ∧ t.env.txns = s.env.txns ∧ t.env.memReplies = s.env.memReplies ∧
      t.env.regReplies = s.env.regReplies ∧ t.env.resets = rest ∧ t.env.now = s.env.now + 1

/-- 70_reset_and_hazards.md section 1 (R312): if a reset is asserted in a later tick r, an operation either finishes before
it, or the reset abandons it in tick r: no result, no Done, no Notify(false), NOTIFY 0, the shadows Unknown, the
written-marks cleared. That an operation whose finish falls in tick r itself is abandoned too is the model's reading (log
14). -/
def Obligations.ResetAbandonsOperation : Prop :=
  ∀ (i : Instr) (s t : State) (r : Nat) (c : Cfg) (rest : List (Nat × Cfg)), s.env.resets = (r, c) :: rest →
    s.env.now < r → exec i s = .next t →
    (t.env.resets = (r, c) :: rest ∧ t.env.now ≤ r ∧ t.result ≠ .none ∧ t.cfg = s.cfg) ∨
    (t.env.resets = rest ∧ t.env.now = r + 1 ∧ t.cfg = c ∧ t.opState = .idle ∧ t.result = .none ∧ t.notify = false ∧
      t.dcSh = .unknown ∧ t.csSh = .unknown ∧ t.rstSh = .unknown ∧ (∀ a, t.pbuf.read a = none) ∧
      (∀ k, t.src.read k = none) ∧
      ∃ new, t.env.trace = s.env.trace ++ new ∧ new.filter isDone = [] ∧ ∀ e ∈ new, e.event ≠ .notify false)

/-- 10_state.md section 7 (R43): FAULTED is set by a model fault, of a step or of an operation, and by nothing else, and no
step clears it, a reset among them; it is clear right after the first reset. -/
def Obligations.FaultedIsNeverCleared : Prop :=
  (∀ (s : State) (f : Fault), step s = .fault f → f.left.faulted = true) ∧
  (∀ (i : Instr) (s : State) (f : Fault), exec i s = .fault f → f.left.faulted = true) ∧
  (∀ s t : State, step s = .next t → t.faulted = s.faulted) ∧
  ∀ (b : Build) (c : Cfg), (State.afterReset b c).faulted = false

/-- 10_state.md section 2 (R23): a configuration that breaks one of the legality conditions is refused: the block has no
step and no operation has a meaning. -/
def Obligations.IllegalConfigurationIsRefused : Prop :=
  ∀ s : State,
    ¬ (1 ≤ s.cfg.pw.toNat ∧ 1 ≤ s.cfg.ph.toNat ∧ 1 ≤ s.cfg.pollTicks.toNat ∧
        (s.cfg.pw.toNat + 7) / 8 * s.cfg.ph.toNat ≤ s.build.pbufSize.toNat ∧
        max s.cfg.pw.toNat s.cfg.ph.toNat ≤ s.build.srcWMax.toNat ∧
        max s.cfg.pw.toNat s.cfg.ph.toNat ≤ s.build.srcHMax.toNat) →
    step s = .refused .illegalConfig ∧ ∀ i : Instr, exec i s = .refused .illegalConfig

/-- 70_reset_and_hazards.md section 1 (R314), "it waits IDLE for the first operation word": a block to which nothing is
presented stays as it is, only time passes; and the state right after reset is such a state. -/
def Obligations.IdleBlockWaits : Prop :=
  (∀ s : State, Ready s → resetDue s = false → presentedWord s = none → s.env.txns = [] → s.env.regReads = [] →
    step s = .next { s with env := { s.env with now := s.env.now + 1 } }) ∧
  ∀ (b : Build) (c : Cfg), legalCfg b c = true →
    step (State.afterReset b c) = .next { State.afterReset b c with env := { Env.start with now := 1 } }

/-! ### The panel's wire protocol and the host's programs -/

/-- 43_panel_protocol.md Part 1 (R232 to R243): the operation words of the panel commands whose payload does not depend on an
argument, and of 0x01, 0x44 and 0x45 for the 122 × 250 panel. -/
def Obligations.PanelCommandWords : Prop :=
  assembleAll (driverOutputControl 250) = some [0x10000001, 0x200000F9, 0x20000000, 0x20000000] ∧
  assembleAll (PseudoOp.expand .sleep) = some [0x10000010, 0x20000001] ∧
  assembleAll dataEntryMode = some [0x10000011, 0x20000003] ∧ assembleAll softwareReset = some [0x10000012] ∧
  assembleAll displayUpdateControl1 = some [0x10000021, 0x20000000, 0x20000080] ∧
  assembleAll borderWaveform = some [0x1000003C, 0x20000005] ∧
  assembleAll (PseudoOp.expand .refreshFull) = some [0x10000022, 0x200000F7, 0x10000020, 0x40000000] ∧
  assembleAll (PseudoOp.expand .refreshPart) = some [0x10000022, 0x200000C4, 0x10000020, 0x40000000] ∧
  assembleAll (PseudoOp.expand (.window 0 0 121 249)) =
    some [0x10000044, 0x20000000, 0x2000000F, 0x10000045, 0x20000000, 0x20000000, 0x200000F9, 0x20000000]

/-- 43_panel_protocol.md R251: the 24 words of the initialization of the 122 × 250 panel. -/
def Obligations.InitializationWords : Prop :=
  ∀ c : Cfg, c.pw = 122 → c.ph = 250 →
    assembleAll (initLines c) = some
      [0x50000000, 0x40000000, 0x10000012, 0x40000000, 0x10000001, 0x200000F9, 0x20000000, 0x20000000,
       0x10000011, 0x20000003, 0x10000044, 0x20000000, 0x2000000F, 0x10000045, 0x20000000, 0x20000000,
       0x200000F9, 0x20000000, 0x1000003C, 0x20000005, 0x10000021, 0x20000000, 0x20000080, 0x40000000]

/-- 43_panel_protocol.md section Part 2 (R255): the words of Clear for the 122 × 250 panel, the fill byte depending on the
polarity (90_conflicts.md C2). -/
def Obligations.ClearWords : Prop :=
  ∀ (c : Cfg) (toWhite : Bool), c.pw = 122 → c.ph = 250 →
    assembleAll (clearLines c toWhite) = some
      [if (c.polarity = .lightIsOne) = (toWhite = true) then 0x700000FF else 0x70000000, 0x10000024, 0x33E80000,
       0x10000022, 0x200000F7, 0x10000020, 0x40000000]

/-- 43_panel_protocol.md section Part 2 (R256, R257): the words of DrawImage after its image is in SRC, for the panel's size
and for its transpose, and of a PartialDrawImage of a 10 × 20 sub-image, steps 4 to 6, on the 122 × 250 panel: the partial
Write RAM sends STRIDE × H bytes. -/
def Obligations.DrawWords : Prop :=
  ∀ c : Cfg, c.pw = 122 → c.ph = 250 →
    assembleAll (drawLines c 122 250) = some
      [0x600F40FA, 0x10000024, 0x33E80000, 0x10000022, 0x200000F7, 0x10000020, 0x40000000] ∧
    assembleAll (drawLines c 250 122) = some
      [0x601F407A, 0x10000024, 0x33E80000, 0x10000022, 0x200000F7, 0x10000020, 0x40000000] ∧
    assembleAll (partialLines c 10 20) = some
      [0x64014014, 0x10000024, 0x30500000, 0x10000022, 0x200000C4, 0x10000020, 0x40000000]

/-- 42_packer.md section 4 with 40_framer.md section 4, as Clear uses them (43_panel_protocol.md R255, R261): FILL then DATAB
of the full buffer transmits the buffer's length in copies of the fill byte, in one Transmit among the events the two add. -/
def Obligations.FilledBufferIsSentUniform : Prop :=
  ∀ (b : Byte) (s : State) (a1 a2 a3 a4 : Answer) (rest : List Answer) (len : BitVec 14), Ready s → NoReset s →
    s.env.answers = a1 :: a2 :: a3 :: a4 :: rest →
    a1.ok = true ∧ a2.ok = true ∧ a3.ok = true ∧ a4.ok = true →
    len.toNat = (s.cfg.pw.toNat + 7) / 8 * s.cfg.ph.toNat →
    ∃ t u new tick back, exec (.fill b) s = .next t ∧ exec (.datab len 0) t = .next u ∧ u.result = .ok ∧
      u.env.reached = s.env.reached ++ List.replicate len.toNat b ∧
      u.env.trace = s.env.trace ++ new ∧ t.env.now ≤ tick ∧
      ⟨tick, .request (.transmit (List.replicate len.toNat b)) .ok back⟩ ∈ new

/-- 43_panel_protocol.md R263 and the example R264: a window that is not within the panel is rejected with InvalidInput
before any block operation: the block's state, its observation among it, is untouched. -/
def Obligations.PartialDrawOutsidePanelRejected : Prop :=
  (∀ (img : Image) (ox oy : Int) (d : Driver), d.phase = .ready →
    ¬ (1 ≤ img.w ∧ 1 ≤ img.h ∧ 0 ≤ ox ∧ 0 ≤ oy ∧ ox + img.w ≤ d.machine.cfg.pw.toNat ∧
        oy + img.h ≤ d.machine.cfg.ph.toNat) →
    hostPartial img ox oy d = .failed .invalidInput d) ∧
  ∀ (img : Image) (d : Driver), d.phase = .ready → d.machine.cfg.pw = 122 → img.w = 10 → img.h = 10 →
    hostPartial img 120 0 d = .failed .invalidInput d

/-- 70_reset_and_hazards.md section 1 (R313) and 43_panel_protocol.md R252: construction opens the bus first and resolves
the pins second; a failure of either leaves no handle, the transport not held, and the block untouched; a failure of the
initialization releases what was acquired. -/
def Obligations.ConstructionOrder : Prop :=
  (∀ (k : Construction) (s : State), k.openOk = false →
    hostConstruct k s = .failed .transportFailure (noHandle s)) ∧
  (∀ (k : Construction) (s : State), k.openOk = true → pinNamesValid k = true →
    (k.dcFound = false ∨ k.csFound = false ∨ k.rstFound = false ∨ k.busyFound = false) →
    hostConstruct k s = .failed .pinResolutionFailure (noHandle s)) ∧
  ∀ (k : Construction) (s : State) (e : HostError) (d : Driver), hostConstruct k s = .failed e d →
    d.busOpen = false ∧ d.phase = .uninitialized

/-- 43_panel_protocol.md section Part 2 (R259): whatever Sleep() returns, Close() of a handle that is Ready or Sleeping
releases the transport and closes the handle, and reports Sleep()'s error, or success; a second Close() has no meaning. That
`closeBus` itself reports no error is the model's choice (log 22). -/
def Obligations.CloseReleasesTransport : Prop :=
  (∀ d : Driver, d.phase = .ready ∨ d.phase = .sleeping →
    (∀ d', hostClose d = .done d' → d'.busOpen = false ∧ d'.phase = .closed) ∧
    (∀ e d', hostClose d = .failed e d' → d'.busOpen = false ∧ d'.phase = .closed)) ∧
  (∀ d : Driver, d.phase = .closed → hostClose d = .noMeaning) ∧
  (∀ (d d' : Driver) (e : HostError), d.phase = .ready → hostSleep d = .failed e d' →
    hostClose d = .failed e (releaseBus d')) ∧
  (∀ d d' : Driver, d.phase = .ready → hostSleep d = .done d' → hostClose d = .done (releaseBus d')) ∧
  ∀ d : Driver, d.phase = .sleeping → hostClose d = .done (releaseBus d)

/-- 43_panel_protocol.md section Part 2 (R260): a host program stops at the first operation that finishes other than OK and
reports its typed error; what follows it in the program does not matter. -/
def Obligations.ProgramStopsAtFirstFailure : Prop :=
  ∀ (p : Phase) (l : AsmLine) (rest : List (Phase × AsmLine)) (d : Driver) (w : Word) (t : State),
    l.assemble = some w → step (hostPresent w d.machine) = .next t →
    (t.result = .timeout → runProgram ((p, l) :: rest) d = .failed .timeout { d with phase := p, machine := t }) ∧
    (t.result = .transportFailure →
      runProgram ((p, l) :: rest) d = .failed .transportFailure { d with phase := p, machine := t }) ∧
    (t.result = .invalidInput →
      runProgram ((p, l) :: rest) d = .failed .invalidInput { d with phase := p, machine := t }) ∧
    (t.result = .ok → runProgram ((p, l) :: rest) d = runProgram rest { d with phase := p, machine := t })
end

