-- ==== Sys2Proof/Laws/Encoding.lean ====
section
/-! SUPPORT. The fields of an operation word as numbers, an operation's word as a number, and the fields of that word. -/

namespace Sys2Proof

/-! ### The fields of a word, as numbers -/

theorem fieldOp_toNat (w : Word) : (fieldOp w).toNat = w.toNat / 2 ^ 28 := by
  have := w.isLt
  simp [fieldOp, Nat.shiftRight_eq_div_pow]; omega

theorem fieldByte_toNat (w : Word) : (fieldByte w).toNat = w.toNat % 2 ^ 8 := by simp [fieldByte]

theorem fieldLen_toNat (w : Word) : (fieldLen w).toNat = w.toNat / 2 ^ 14 % 2 ^ 14 := by
  simp [fieldLen, Nat.shiftRight_eq_div_pow]

theorem fieldAddr_toNat (w : Word) : (fieldAddr w).toNat = w.toNat % 2 ^ 14 := by simp [fieldAddr]

theorem fieldMode_toNat (w : Word) : (fieldMode w).toNat = w.toNat / 2 ^ 26 % 2 := by
  simp [fieldMode, Nat.shiftRight_eq_div_pow]

theorem fieldW_toNat (w : Word) : (fieldW w).toNat = w.toNat / 2 ^ 13 % 2 ^ 13 := by
  simp [fieldW, Nat.shiftRight_eq_div_pow]

theorem fieldH_toNat (w : Word) : (fieldH w).toNat = w.toNat % 2 ^ 13 := by simp [fieldH]

theorem fieldZeroB_toNat (w : Word) : (fieldZeroB w).toNat = w.toNat / 2 ^ 8 % 2 ^ 20 := by
  simp [fieldZeroB, Nat.shiftRight_eq_div_pow]

theorem fieldZeroZ_toNat (w : Word) : (fieldZeroZ w).toNat = w.toNat % 2 ^ 28 := by simp [fieldZeroZ]

theorem fieldZeroP_toNat (w : Word) : (fieldZeroP w).toNat = w.toNat / 2 ^ 27 % 2 := by
  simp [fieldZeroP, Nat.shiftRight_eq_div_pow]

/-! ### The word of an operation, as a number -/

/-- Concatenation as arithmetic. -/
theorem append_toNat {m n : Nat} (a : BitVec m) (b : BitVec n) : (a ++ b).toNat = a.toNat * 2 ^ n + b.toNat := by
  rw [BitVec.toNat_append, ← Nat.shiftLeft_add_eq_or_of_lt b.isLt, Nat.shiftLeft_eq]

theorem encode_cmd_toNat (b : Byte) : (encode (.cmd b)).toNat = 2 ^ 28 + b.toNat := by
  simp only [encode, append_toNat]; simp

theorem encode_data_toNat (b : Byte) : (encode (.data b)).toNat = 2 * 2 ^ 28 + b.toNat := by
  simp only [encode, append_toNat]; simp

theorem encode_datab_toNat (len addr : BitVec 14) :
    (encode (.datab len addr)).toNat = 3 * 2 ^ 28 + len.toNat * 2 ^ 14 + addr.toNat := by
  simp only [encode, append_toNat]; simp; ring

theorem encode_packFull_toNat (w h : BitVec 13) :
    (encode (.packFull w h)).toNat = 6 * 2 ^ 28 + w.toNat * 2 ^ 13 + h.toNat := by
  simp only [encode, append_toNat]; simp; ring

theorem encode_packSub_toNat (w h : BitVec 13) :
    (encode (.packSub w h)).toNat = 6 * 2 ^ 28 + 2 ^ 26 + w.toNat * 2 ^ 13 + h.toNat := by
  simp only [encode, append_toNat]; simp; ring

theorem encode_fill_toNat (b : Byte) : (encode (.fill b)).toNat = 7 * 2 ^ 28 + b.toNat := by
  simp only [encode, append_toNat]; simp

/-! ### The fields of an operation's word -/

@[simp] theorem fieldOp_cmd (b : Byte) : fieldOp (encode (.cmd b)) = 1 := by
  apply BitVec.eq_of_toNat_eq; rw [fieldOp_toNat, encode_cmd_toNat]; have := b.isLt; simp; omega
@[simp] theorem fieldOp_data (b : Byte) : fieldOp (encode (.data b)) = 2 := by
  apply BitVec.eq_of_toNat_eq; rw [fieldOp_toNat, encode_data_toNat]; have := b.isLt; simp; omega
@[simp] theorem fieldOp_datab (len addr : BitVec 14) : fieldOp (encode (.datab len addr)) = 3 := by
  apply BitVec.eq_of_toNat_eq; rw [fieldOp_toNat, encode_datab_toNat]
  have := len.isLt; have := addr.isLt; simp; omega
@[simp] theorem fieldOp_wait : fieldOp (encode .wait) = 4 := by decide
@[simp] theorem fieldOp_rstp : fieldOp (encode .rstp) = 5 := by decide
@[simp] theorem fieldOp_packFull (w h : BitVec 13) : fieldOp (encode (.packFull w h)) = 6 := by
  apply BitVec.eq_of_toNat_eq; rw [fieldOp_toNat, encode_packFull_toNat]
  have := w.isLt; have := h.isLt; simp; omega
@[simp] theorem fieldOp_packSub (w h : BitVec 13) : fieldOp (encode (.packSub w h)) = 6 := by
  apply BitVec.eq_of_toNat_eq; rw [fieldOp_toNat, encode_packSub_toNat]
  have := w.isLt; have := h.isLt; simp; omega
@[simp] theorem fieldOp_fill (b : Byte) : fieldOp (encode (.fill b)) = 7 := by
  apply BitVec.eq_of_toNat_eq; rw [fieldOp_toNat, encode_fill_toNat]; have := b.isLt; simp; omega

@[simp] theorem fieldByte_cmd (b : Byte) : fieldByte (encode (.cmd b)) = b := by
  apply BitVec.eq_of_toNat_eq; rw [fieldByte_toNat, encode_cmd_toNat]; have := b.isLt; omega
@[simp] theorem fieldByte_data (b : Byte) : fieldByte (encode (.data b)) = b := by
  apply BitVec.eq_of_toNat_eq; rw [fieldByte_toNat, encode_data_toNat]; have := b.isLt; omega
@[simp] theorem fieldByte_fill (b : Byte) : fieldByte (encode (.fill b)) = b := by
  apply BitVec.eq_of_toNat_eq; rw [fieldByte_toNat, encode_fill_toNat]; have := b.isLt; omega
@[simp] theorem fieldZeroB_cmd (b : Byte) : fieldZeroB (encode (.cmd b)) = 0 := by
  apply BitVec.eq_of_toNat_eq; rw [fieldZeroB_toNat, encode_cmd_toNat]; have := b.isLt; simp; omega
@[simp] theorem fieldZeroB_data (b : Byte) : fieldZeroB (encode (.data b)) = 0 := by
  apply BitVec.eq_of_toNat_eq; rw [fieldZeroB_toNat, encode_data_toNat]; have := b.isLt; simp; omega
@[simp] theorem fieldZeroB_fill (b : Byte) : fieldZeroB (encode (.fill b)) = 0 := by
  apply BitVec.eq_of_toNat_eq; rw [fieldZeroB_toNat, encode_fill_toNat]; have := b.isLt; simp; omega
@[simp] theorem fieldZeroZ_wait : fieldZeroZ (encode .wait) = 0 := by decide
@[simp] theorem fieldZeroZ_rstp : fieldZeroZ (encode .rstp) = 0 := by decide

@[simp] theorem fieldLen_datab (len addr : BitVec 14) : fieldLen (encode (.datab len addr)) = len := by
  apply BitVec.eq_of_toNat_eq; rw [fieldLen_toNat, encode_datab_toNat]
  have := len.isLt; have := addr.isLt; omega
@[simp] theorem fieldAddr_datab (len addr : BitVec 14) : fieldAddr (encode (.datab len addr)) = addr := by
  apply BitVec.eq_of_toNat_eq; rw [fieldAddr_toNat, encode_datab_toNat]
  have := len.isLt; have := addr.isLt; omega

@[simp] theorem fieldZeroP_packFull (w h : BitVec 13) : fieldZeroP (encode (.packFull w h)) = 0 := by
  apply BitVec.eq_of_toNat_eq; rw [fieldZeroP_toNat, encode_packFull_toNat]
  have := w.isLt; have := h.isLt; simp; omega
@[simp] theorem fieldMode_packFull (w h : BitVec 13) : fieldMode (encode (.packFull w h)) = 0 := by
  apply BitVec.eq_of_toNat_eq; rw [fieldMode_toNat, encode_packFull_toNat]
  have := w.isLt; have := h.isLt; simp; omega
@[simp] theorem fieldW_packFull (w h : BitVec 13) : fieldW (encode (.packFull w h)) = w := by
  apply BitVec.eq_of_toNat_eq; rw [fieldW_toNat, encode_packFull_toNat]
  have := w.isLt; have := h.isLt; omega
@[simp] theorem fieldH_packFull (w h : BitVec 13) : fieldH (encode (.packFull w h)) = h := by
  apply BitVec.eq_of_toNat_eq; rw [fieldH_toNat, encode_packFull_toNat]
  have := w.isLt; have := h.isLt; omega
@[simp] theorem fieldZeroP_packSub (w h : BitVec 13) : fieldZeroP (encode (.packSub w h)) = 0 := by
  apply BitVec.eq_of_toNat_eq; rw [fieldZeroP_toNat, encode_packSub_toNat]
  have := w.isLt; have := h.isLt; simp; omega
@[simp] theorem fieldMode_packSub (w h : BitVec 13) : fieldMode (encode (.packSub w h)) = 1 := by
  apply BitVec.eq_of_toNat_eq; rw [fieldMode_toNat, encode_packSub_toNat]
  have := w.isLt; have := h.isLt; simp; omega
@[simp] theorem fieldW_packSub (w h : BitVec 13) : fieldW (encode (.packSub w h)) = w := by
  apply BitVec.eq_of_toNat_eq; rw [fieldW_toNat, encode_packSub_toNat]
  have := w.isLt; have := h.isLt; omega
@[simp] theorem fieldH_packSub (w h : BitVec 13) : fieldH (encode (.packSub w h)) = h := by
  apply BitVec.eq_of_toNat_eq; rw [fieldH_toNat, encode_packSub_toNat]
  have := w.isLt; have := h.isLt; omega

end Sys2Proof
end

