-- ==== Sys2Proof/Laws/State.lean ====
section
/-! SUPPORT. One lemma for each field of the state under each shared operation, tagged for simp, so that no later proof
unfolds a record update. -/

namespace Sys2Proof.Machine

/-! ### logAt -/

@[simp] theorem logAt_build (t : Nat) (e : Event) (s : State) : (logAt t e s).build = s.build := rfl
@[simp] theorem logAt_cfg (t : Nat) (e : Event) (s : State) : (logAt t e s).cfg = s.cfg := rfl
@[simp] theorem logAt_opState (t : Nat) (e : Event) (s : State) : (logAt t e s).opState = s.opState := rfl
@[simp] theorem logAt_curOp (t : Nat) (e : Event) (s : State) : (logAt t e s).curOp = s.curOp := rfl
@[simp] theorem logAt_result (t : Nat) (e : Event) (s : State) : (logAt t e s).result = s.result := rfl
@[simp] theorem logAt_lastOp (t : Nat) (e : Event) (s : State) : (logAt t e s).lastOp = s.lastOp := rfl
@[simp] theorem logAt_framer (t : Nat) (e : Event) (s : State) : (logAt t e s).framer = s.framer := rfl
@[simp] theorem logAt_fcnt (t : Nat) (e : Event) (s : State) : (logAt t e s).fcnt = s.fcnt := rfl
@[simp] theorem logAt_sync (t : Nat) (e : Event) (s : State) : (logAt t e s).sync = s.sync := rfl
@[simp] theorem logAt_elapsed (t : Nat) (e : Event) (s : State) : (logAt t e s).elapsed = s.elapsed := rfl
@[simp] theorem logAt_samples (t : Nat) (e : Event) (s : State) : (logAt t e s).samples = s.samples := rfl
@[simp] theorem logAt_notify (t : Nat) (e : Event) (s : State) : (logAt t e s).notify = s.notify := rfl
@[simp] theorem logAt_packer (t : Nat) (e : Event) (s : State) : (logAt t e s).packer = s.packer := rfl
@[simp] theorem logAt_dcSh (t : Nat) (e : Event) (s : State) : (logAt t e s).dcSh = s.dcSh := rfl
@[simp] theorem logAt_csSh (t : Nat) (e : Event) (s : State) : (logAt t e s).csSh = s.csSh := rfl
@[simp] theorem logAt_rstSh (t : Nat) (e : Event) (s : State) : (logAt t e s).rstSh = s.rstSh := rfl
@[simp] theorem logAt_pbuf (t : Nat) (e : Event) (s : State) : (logAt t e s).pbuf = s.pbuf := rfl
@[simp] theorem logAt_src (t : Nat) (e : Event) (s : State) : (logAt t e s).src = s.src := rfl
@[simp] theorem logAt_faulted (t : Nat) (e : Event) (s : State) : (logAt t e s).faulted = s.faulted := rfl
@[simp] theorem logAt_now (t : Nat) (e : Event) (s : State) : (logAt t e s).env.now = s.env.now := rfl
@[simp] theorem logAt_ops (t : Nat) (e : Event) (s : State) : (logAt t e s).env.ops = s.env.ops := rfl
@[simp] theorem logAt_txns (t : Nat) (e : Event) (s : State) : (logAt t e s).env.txns = s.env.txns := rfl
@[simp] theorem logAt_regReads (t : Nat) (e : Event) (s : State) : (logAt t e s).env.regReads = s.env.regReads := rfl
@[simp] theorem logAt_resets (t : Nat) (e : Event) (s : State) : (logAt t e s).env.resets = s.env.resets := rfl
@[simp] theorem logAt_answers (t : Nat) (e : Event) (s : State) : (logAt t e s).env.answers = s.env.answers := rfl
@[simp] theorem logAt_busyLevels (t : Nat) (e : Event) (s : State) : (logAt t e s).env.busyLevels = s.env.busyLevels := rfl
@[simp] theorem logAt_packTimes (t : Nat) (e : Event) (s : State) : (logAt t e s).env.packTimes = s.env.packTimes := rfl
@[simp] theorem logAt_draws (t : Nat) (e : Event) (s : State) : (logAt t e s).env.draws = s.env.draws := rfl
@[simp] theorem logAt_outstanding (t : Nat) (e : Event) (s : State) : (logAt t e s).env.outstanding = s.env.outstanding := rfl
@[simp] theorem logAt_packLeft (t : Nat) (e : Event) (s : State) : (logAt t e s).env.packLeft = s.env.packLeft := rfl
@[simp] theorem logAt_memReplies (t : Nat) (e : Event) (s : State) : (logAt t e s).env.memReplies = s.env.memReplies := rfl
@[simp] theorem logAt_regReplies (t : Nat) (e : Event) (s : State) : (logAt t e s).env.regReplies = s.env.regReplies := rfl
@[simp] theorem logAt_reached (t : Nat) (e : Event) (s : State) : (logAt t e s).env.reached = s.env.reached := rfl
@[simp] theorem logAt_trace (t : Nat) (e : Event) (s : State) :
    (logAt t e s).env.trace = s.env.trace ++ [⟨t, e⟩] := rfl

/-! ### log -/

@[simp] theorem log_build (e : Event) (s : State) : (log e s).build = s.build := rfl
@[simp] theorem log_cfg (e : Event) (s : State) : (log e s).cfg = s.cfg := rfl
@[simp] theorem log_opState (e : Event) (s : State) : (log e s).opState = s.opState := rfl
@[simp] theorem log_curOp (e : Event) (s : State) : (log e s).curOp = s.curOp := rfl
@[simp] theorem log_result (e : Event) (s : State) : (log e s).result = s.result := rfl
@[simp] theorem log_lastOp (e : Event) (s : State) : (log e s).lastOp = s.lastOp := rfl
@[simp] theorem log_framer (e : Event) (s : State) : (log e s).framer = s.framer := rfl
@[simp] theorem log_fcnt (e : Event) (s : State) : (log e s).fcnt = s.fcnt := rfl
@[simp] theorem log_sync (e : Event) (s : State) : (log e s).sync = s.sync := rfl
@[simp] theorem log_elapsed (e : Event) (s : State) : (log e s).elapsed = s.elapsed := rfl
@[simp] theorem log_samples (e : Event) (s : State) : (log e s).samples = s.samples := rfl
@[simp] theorem log_notify (e : Event) (s : State) : (log e s).notify = s.notify := rfl
@[simp] theorem log_packer (e : Event) (s : State) : (log e s).packer = s.packer := rfl
@[simp] theorem log_dcSh (e : Event) (s : State) : (log e s).dcSh = s.dcSh := rfl
@[simp] theorem log_csSh (e : Event) (s : State) : (log e s).csSh = s.csSh := rfl
@[simp] theorem log_rstSh (e : Event) (s : State) : (log e s).rstSh = s.rstSh := rfl
@[simp] theorem log_pbuf (e : Event) (s : State) : (log e s).pbuf = s.pbuf := rfl
@[simp] theorem log_src (e : Event) (s : State) : (log e s).src = s.src := rfl
@[simp] theorem log_faulted (e : Event) (s : State) : (log e s).faulted = s.faulted := rfl
@[simp] theorem log_now (e : Event) (s : State) : (log e s).env.now = s.env.now := rfl
@[simp] theorem log_ops (e : Event) (s : State) : (log e s).env.ops = s.env.ops := rfl
@[simp] theorem log_txns (e : Event) (s : State) : (log e s).env.txns = s.env.txns := rfl
@[simp] theorem log_regReads (e : Event) (s : State) : (log e s).env.regReads = s.env.regReads := rfl
@[simp] theorem log_resets (e : Event) (s : State) : (log e s).env.resets = s.env.resets := rfl
@[simp] theorem log_answers (e : Event) (s : State) : (log e s).env.answers = s.env.answers := rfl
@[simp] theorem log_busyLevels (e : Event) (s : State) : (log e s).env.busyLevels = s.env.busyLevels := rfl
@[simp] theorem log_packTimes (e : Event) (s : State) : (log e s).env.packTimes = s.env.packTimes := rfl
@[simp] theorem log_draws (e : Event) (s : State) : (log e s).env.draws = s.env.draws := rfl
@[simp] theorem log_outstanding (e : Event) (s : State) : (log e s).env.outstanding = s.env.outstanding := rfl
@[simp] theorem log_packLeft (e : Event) (s : State) : (log e s).env.packLeft = s.env.packLeft := rfl
@[simp] theorem log_memReplies (e : Event) (s : State) : (log e s).env.memReplies = s.env.memReplies := rfl
@[simp] theorem log_regReplies (e : Event) (s : State) : (log e s).env.regReplies = s.env.regReplies := rfl
@[simp] theorem log_reached (e : Event) (s : State) : (log e s).env.reached = s.env.reached := rfl
@[simp] theorem log_trace (e : Event) (s : State) :
    (log e s).env.trace = s.env.trace ++ [⟨s.env.now, e⟩] := rfl

/-! ### readPort -/

@[simp] theorem readPort_build (s : State) : (readPort s).build = s.build := by unfold readPort; (repeat' split) <;> rfl
@[simp] theorem readPort_cfg (s : State) : (readPort s).cfg = s.cfg := by unfold readPort; (repeat' split) <;> rfl
@[simp] theorem readPort_opState (s : State) : (readPort s).opState = s.opState := by unfold readPort; (repeat' split) <;> rfl
@[simp] theorem readPort_curOp (s : State) : (readPort s).curOp = s.curOp := by unfold readPort; (repeat' split) <;> rfl
@[simp] theorem readPort_result (s : State) : (readPort s).result = s.result := by unfold readPort; (repeat' split) <;> rfl
@[simp] theorem readPort_lastOp (s : State) : (readPort s).lastOp = s.lastOp := by unfold readPort; (repeat' split) <;> rfl
@[simp] theorem readPort_framer (s : State) : (readPort s).framer = s.framer := by unfold readPort; (repeat' split) <;> rfl
@[simp] theorem readPort_fcnt (s : State) : (readPort s).fcnt = s.fcnt := by unfold readPort; (repeat' split) <;> rfl
@[simp] theorem readPort_sync (s : State) : (readPort s).sync = s.sync := by unfold readPort; (repeat' split) <;> rfl
@[simp] theorem readPort_elapsed (s : State) : (readPort s).elapsed = s.elapsed := by unfold readPort; (repeat' split) <;> rfl
@[simp] theorem readPort_samples (s : State) : (readPort s).samples = s.samples := by unfold readPort; (repeat' split) <;> rfl
@[simp] theorem readPort_notify (s : State) : (readPort s).notify = s.notify := by unfold readPort; (repeat' split) <;> rfl
@[simp] theorem readPort_packer (s : State) : (readPort s).packer = s.packer := by unfold readPort; (repeat' split) <;> rfl
@[simp] theorem readPort_dcSh (s : State) : (readPort s).dcSh = s.dcSh := by unfold readPort; (repeat' split) <;> rfl
@[simp] theorem readPort_csSh (s : State) : (readPort s).csSh = s.csSh := by unfold readPort; (repeat' split) <;> rfl
@[simp] theorem readPort_rstSh (s : State) : (readPort s).rstSh = s.rstSh := by unfold readPort; (repeat' split) <;> rfl
@[simp] theorem readPort_pbuf (s : State) : (readPort s).pbuf = s.pbuf := by unfold readPort; (repeat' split) <;> rfl
@[simp] theorem readPort_src (s : State) : (readPort s).src = s.src := by unfold readPort; (repeat' split) <;> rfl
@[simp] theorem readPort_faulted (s : State) : (readPort s).faulted = s.faulted := by unfold readPort; (repeat' split) <;> rfl
@[simp] theorem readPort_now (s : State) : (readPort s).env.now = s.env.now := by unfold readPort; (repeat' split) <;> rfl
@[simp] theorem readPort_ops (s : State) : (readPort s).env.ops = s.env.ops := by unfold readPort; (repeat' split) <;> rfl
@[simp] theorem readPort_txns (s : State) : (readPort s).env.txns = s.env.txns := by unfold readPort; (repeat' split) <;> rfl
@[simp] theorem readPort_resets (s : State) : (readPort s).env.resets = s.env.resets := by unfold readPort; (repeat' split) <;> rfl
@[simp] theorem readPort_answers (s : State) : (readPort s).env.answers = s.env.answers := by unfold readPort; (repeat' split) <;> rfl
@[simp] theorem readPort_busyLevels (s : State) : (readPort s).env.busyLevels = s.env.busyLevels := by unfold readPort; (repeat' split) <;> rfl
@[simp] theorem readPort_packTimes (s : State) : (readPort s).env.packTimes = s.env.packTimes := by unfold readPort; (repeat' split) <;> rfl
@[simp] theorem readPort_draws (s : State) : (readPort s).env.draws = s.env.draws := by unfold readPort; (repeat' split) <;> rfl
@[simp] theorem readPort_outstanding (s : State) : (readPort s).env.outstanding = s.env.outstanding := by unfold readPort; (repeat' split) <;> rfl
@[simp] theorem readPort_packLeft (s : State) : (readPort s).env.packLeft = s.env.packLeft := by unfold readPort; (repeat' split) <;> rfl
@[simp] theorem readPort_trace (s : State) : (readPort s).env.trace = s.env.trace := by unfold readPort; (repeat' split) <;> rfl
@[simp] theorem readPort_memReplies (s : State) : (readPort s).env.memReplies = s.env.memReplies := by unfold readPort; (repeat' split) <;> rfl
@[simp] theorem readPort_reached (s : State) : (readPort s).env.reached = s.env.reached := by unfold readPort; (repeat' split) <;> rfl

/-! ### endTick -/

@[simp] theorem endTick_build (s : State) : (endTick s).build = s.build := rfl
@[simp] theorem endTick_cfg (s : State) : (endTick s).cfg = s.cfg := rfl
@[simp] theorem endTick_opState (s : State) : (endTick s).opState = s.opState := rfl
@[simp] theorem endTick_curOp (s : State) : (endTick s).curOp = s.curOp := rfl
@[simp] theorem endTick_result (s : State) : (endTick s).result = s.result := rfl
@[simp] theorem endTick_lastOp (s : State) : (endTick s).lastOp = s.lastOp := rfl
@[simp] theorem endTick_framer (s : State) : (endTick s).framer = s.framer := rfl
@[simp] theorem endTick_fcnt (s : State) : (endTick s).fcnt = s.fcnt := rfl
@[simp] theorem endTick_sync (s : State) : (endTick s).sync = s.sync := rfl
@[simp] theorem endTick_elapsed (s : State) : (endTick s).elapsed = s.elapsed := rfl
@[simp] theorem endTick_samples (s : State) : (endTick s).samples = s.samples := rfl
@[simp] theorem endTick_notify (s : State) : (endTick s).notify = s.notify := rfl
@[simp] theorem endTick_packer (s : State) : (endTick s).packer = s.packer := rfl
@[simp] theorem endTick_dcSh (s : State) : (endTick s).dcSh = s.dcSh := rfl
@[simp] theorem endTick_csSh (s : State) : (endTick s).csSh = s.csSh := rfl
@[simp] theorem endTick_rstSh (s : State) : (endTick s).rstSh = s.rstSh := rfl
@[simp] theorem endTick_pbuf (s : State) : (endTick s).pbuf = s.pbuf := rfl
@[simp] theorem endTick_src (s : State) : (endTick s).src = s.src := rfl
@[simp] theorem endTick_faulted (s : State) : (endTick s).faulted = s.faulted := rfl
@[simp] theorem endTick_ops (s : State) : (endTick s).env.ops = s.env.ops := rfl
@[simp] theorem endTick_txns (s : State) : (endTick s).env.txns = s.env.txns := rfl
@[simp] theorem endTick_regReads (s : State) : (endTick s).env.regReads = s.env.regReads := rfl
@[simp] theorem endTick_resets (s : State) : (endTick s).env.resets = s.env.resets := rfl
@[simp] theorem endTick_answers (s : State) : (endTick s).env.answers = s.env.answers := rfl
@[simp] theorem endTick_busyLevels (s : State) : (endTick s).env.busyLevels = s.env.busyLevels := rfl
@[simp] theorem endTick_packTimes (s : State) : (endTick s).env.packTimes = s.env.packTimes := rfl
@[simp] theorem endTick_draws (s : State) : (endTick s).env.draws = s.env.draws := rfl
@[simp] theorem endTick_outstanding (s : State) : (endTick s).env.outstanding = s.env.outstanding := rfl
@[simp] theorem endTick_packLeft (s : State) : (endTick s).env.packLeft = s.env.packLeft := rfl
@[simp] theorem endTick_trace (s : State) : (endTick s).env.trace = s.env.trace := rfl
@[simp] theorem endTick_memReplies (s : State) : (endTick s).env.memReplies = s.env.memReplies := rfl
@[simp] theorem endTick_regReplies (s : State) : (endTick s).env.regReplies = s.env.regReplies := rfl
@[simp] theorem endTick_reached (s : State) : (endTick s).env.reached = s.env.reached := rfl
@[simp] theorem endTick_now (s : State) :
    (endTick s).env.now = s.env.now + 1 := rfl

/-! ### faultedState -/

@[simp] theorem faultedState_build (s : State) : (faultedState s).build = s.build := rfl
@[simp] theorem faultedState_cfg (s : State) : (faultedState s).cfg = s.cfg := rfl
@[simp] theorem faultedState_opState (s : State) : (faultedState s).opState = s.opState := rfl
@[simp] theorem faultedState_curOp (s : State) : (faultedState s).curOp = s.curOp := rfl
@[simp] theorem faultedState_result (s : State) : (faultedState s).result = s.result := rfl
@[simp] theorem faultedState_lastOp (s : State) : (faultedState s).lastOp = s.lastOp := rfl
@[simp] theorem faultedState_framer (s : State) : (faultedState s).framer = s.framer := rfl
@[simp] theorem faultedState_fcnt (s : State) : (faultedState s).fcnt = s.fcnt := rfl
@[simp] theorem faultedState_sync (s : State) : (faultedState s).sync = s.sync := rfl
@[simp] theorem faultedState_elapsed (s : State) : (faultedState s).elapsed = s.elapsed := rfl
@[simp] theorem faultedState_samples (s : State) : (faultedState s).samples = s.samples := rfl
@[simp] theorem faultedState_notify (s : State) : (faultedState s).notify = s.notify := rfl
@[simp] theorem faultedState_packer (s : State) : (faultedState s).packer = s.packer := rfl
@[simp] theorem faultedState_dcSh (s : State) : (faultedState s).dcSh = s.dcSh := rfl
@[simp] theorem faultedState_csSh (s : State) : (faultedState s).csSh = s.csSh := rfl
@[simp] theorem faultedState_rstSh (s : State) : (faultedState s).rstSh = s.rstSh := rfl
@[simp] theorem faultedState_pbuf (s : State) : (faultedState s).pbuf = s.pbuf := rfl
@[simp] theorem faultedState_src (s : State) : (faultedState s).src = s.src := rfl
@[simp] theorem faultedState_faulted (s : State) : (faultedState s).faulted = true := rfl
@[simp] theorem faultedState_ops (s : State) : (faultedState s).env.ops = s.env.ops := rfl
@[simp] theorem faultedState_txns (s : State) : (faultedState s).env.txns = s.env.txns := rfl
@[simp] theorem faultedState_regReads (s : State) : (faultedState s).env.regReads = s.env.regReads := rfl
@[simp] theorem faultedState_resets (s : State) : (faultedState s).env.resets = s.env.resets := rfl
@[simp] theorem faultedState_answers (s : State) : (faultedState s).env.answers = s.env.answers := rfl
@[simp] theorem faultedState_busyLevels (s : State) : (faultedState s).env.busyLevels = s.env.busyLevels := rfl
@[simp] theorem faultedState_packTimes (s : State) : (faultedState s).env.packTimes = s.env.packTimes := rfl
@[simp] theorem faultedState_draws (s : State) : (faultedState s).env.draws = s.env.draws := rfl
@[simp] theorem faultedState_outstanding (s : State) : (faultedState s).env.outstanding = s.env.outstanding := rfl
@[simp] theorem faultedState_packLeft (s : State) : (faultedState s).env.packLeft = s.env.packLeft := rfl
@[simp] theorem faultedState_trace (s : State) : (faultedState s).env.trace = s.env.trace := rfl
@[simp] theorem faultedState_memReplies (s : State) : (faultedState s).env.memReplies = s.env.memReplies := rfl
@[simp] theorem faultedState_regReplies (s : State) : (faultedState s).env.regReplies = s.env.regReplies := rfl
@[simp] theorem faultedState_reached (s : State) : (faultedState s).env.reached = s.env.reached := rfl
@[simp] theorem faultedState_now (s : State) :
    (faultedState s).env.now = s.env.now + 1 := rfl

/-! ### setShadow -/

@[simp] theorem setShadow_build (p : Pin) (v : Shadow) (s : State) : (setShadow p v s).build = s.build := by cases p <;> rfl
@[simp] theorem setShadow_cfg (p : Pin) (v : Shadow) (s : State) : (setShadow p v s).cfg = s.cfg := by cases p <;> rfl
@[simp] theorem setShadow_opState (p : Pin) (v : Shadow) (s : State) : (setShadow p v s).opState = s.opState := by cases p <;> rfl
@[simp] theorem setShadow_curOp (p : Pin) (v : Shadow) (s : State) : (setShadow p v s).curOp = s.curOp := by cases p <;> rfl
@[simp] theorem setShadow_result (p : Pin) (v : Shadow) (s : State) : (setShadow p v s).result = s.result := by cases p <;> rfl
@[simp] theorem setShadow_lastOp (p : Pin) (v : Shadow) (s : State) : (setShadow p v s).lastOp = s.lastOp := by cases p <;> rfl
@[simp] theorem setShadow_framer (p : Pin) (v : Shadow) (s : State) : (setShadow p v s).framer = s.framer := by cases p <;> rfl
@[simp] theorem setShadow_fcnt (p : Pin) (v : Shadow) (s : State) : (setShadow p v s).fcnt = s.fcnt := by cases p <;> rfl
@[simp] theorem setShadow_sync (p : Pin) (v : Shadow) (s : State) : (setShadow p v s).sync = s.sync := by cases p <;> rfl
@[simp] theorem setShadow_elapsed (p : Pin) (v : Shadow) (s : State) : (setShadow p v s).elapsed = s.elapsed := by cases p <;> rfl
@[simp] theorem setShadow_samples (p : Pin) (v : Shadow) (s : State) : (setShadow p v s).samples = s.samples := by cases p <;> rfl
@[simp] theorem setShadow_notify (p : Pin) (v : Shadow) (s : State) : (setShadow p v s).notify = s.notify := by cases p <;> rfl
@[simp] theorem setShadow_packer (p : Pin) (v : Shadow) (s : State) : (setShadow p v s).packer = s.packer := by cases p <;> rfl
@[simp] theorem setShadow_pbuf (p : Pin) (v : Shadow) (s : State) : (setShadow p v s).pbuf = s.pbuf := by cases p <;> rfl
@[simp] theorem setShadow_src (p : Pin) (v : Shadow) (s : State) : (setShadow p v s).src = s.src := by cases p <;> rfl
@[simp] theorem setShadow_faulted (p : Pin) (v : Shadow) (s : State) : (setShadow p v s).faulted = s.faulted := by cases p <;> rfl
@[simp] theorem setShadow_env (p : Pin) (v : Shadow) (s : State) : (setShadow p v s).env = s.env := by cases p <;> rfl
@[simp] theorem setShadow_dc (v : Shadow) (s : State) :
    (setShadow .dc v s).dcSh = v := rfl
@[simp] theorem setShadow_cs (v : Shadow) (s : State) :
    (setShadow .cs v s).csSh = v := rfl
@[simp] theorem setShadow_rst (v : Shadow) (s : State) :
    (setShadow .rst v s).rstSh = v := rfl
@[simp] theorem setShadow_dc_csSh (v : Shadow) (s : State) :
    (setShadow .dc v s).csSh = s.csSh := rfl
@[simp] theorem setShadow_dc_rstSh (v : Shadow) (s : State) :
    (setShadow .dc v s).rstSh = s.rstSh := rfl
@[simp] theorem setShadow_cs_dcSh (v : Shadow) (s : State) :
    (setShadow .cs v s).dcSh = s.dcSh := rfl
@[simp] theorem setShadow_cs_rstSh (v : Shadow) (s : State) :
    (setShadow .cs v s).rstSh = s.rstSh := rfl
@[simp] theorem setShadow_rst_dcSh (v : Shadow) (s : State) :
    (setShadow .rst v s).dcSh = s.dcSh := rfl
@[simp] theorem setShadow_rst_csSh (v : Shadow) (s : State) :
    (setShadow .rst v s).csSh = s.csSh := rfl

/-! ### issue -/

@[simp] theorem issue_build (st : FramerState) (r : Request) (s : State) : (issue st r s).build = s.build := by unfold issue takeAnswer; split <;> rfl
@[simp] theorem issue_cfg (st : FramerState) (r : Request) (s : State) : (issue st r s).cfg = s.cfg := by unfold issue takeAnswer; split <;> rfl
@[simp] theorem issue_opState (st : FramerState) (r : Request) (s : State) : (issue st r s).opState = s.opState := by unfold issue takeAnswer; split <;> rfl
@[simp] theorem issue_curOp (st : FramerState) (r : Request) (s : State) : (issue st r s).curOp = s.curOp := by unfold issue takeAnswer; split <;> rfl
@[simp] theorem issue_result (st : FramerState) (r : Request) (s : State) : (issue st r s).result = s.result := by unfold issue takeAnswer; split <;> rfl
@[simp] theorem issue_lastOp (st : FramerState) (r : Request) (s : State) : (issue st r s).lastOp = s.lastOp := by unfold issue takeAnswer; split <;> rfl
@[simp] theorem issue_fcnt (st : FramerState) (r : Request) (s : State) : (issue st r s).fcnt = s.fcnt := by unfold issue takeAnswer; split <;> rfl
@[simp] theorem issue_sync (st : FramerState) (r : Request) (s : State) : (issue st r s).sync = s.sync := by unfold issue takeAnswer; split <;> rfl
@[simp] theorem issue_elapsed (st : FramerState) (r : Request) (s : State) : (issue st r s).elapsed = s.elapsed := by unfold issue takeAnswer; split <;> rfl
@[simp] theorem issue_samples (st : FramerState) (r : Request) (s : State) : (issue st r s).samples = s.samples := by unfold issue takeAnswer; split <;> rfl
@[simp] theorem issue_notify (st : FramerState) (r : Request) (s : State) : (issue st r s).notify = s.notify := by unfold issue takeAnswer; split <;> rfl
@[simp] theorem issue_packer (st : FramerState) (r : Request) (s : State) : (issue st r s).packer = s.packer := by unfold issue takeAnswer; split <;> rfl
@[simp] theorem issue_dcSh (st : FramerState) (r : Request) (s : State) : (issue st r s).dcSh = s.dcSh := by unfold issue takeAnswer; split <;> rfl
@[simp] theorem issue_csSh (st : FramerState) (r : Request) (s : State) : (issue st r s).csSh = s.csSh := by unfold issue takeAnswer; split <;> rfl
@[simp] theorem issue_rstSh (st : FramerState) (r : Request) (s : State) : (issue st r s).rstSh = s.rstSh := by unfold issue takeAnswer; split <;> rfl
@[simp] theorem issue_pbuf (st : FramerState) (r : Request) (s : State) : (issue st r s).pbuf = s.pbuf := by unfold issue takeAnswer; split <;> rfl
@[simp] theorem issue_src (st : FramerState) (r : Request) (s : State) : (issue st r s).src = s.src := by unfold issue takeAnswer; split <;> rfl
@[simp] theorem issue_faulted (st : FramerState) (r : Request) (s : State) : (issue st r s).faulted = s.faulted := by unfold issue takeAnswer; split <;> rfl
@[simp] theorem issue_now (st : FramerState) (r : Request) (s : State) : (issue st r s).env.now = s.env.now := by unfold issue takeAnswer; split <;> rfl
@[simp] theorem issue_ops (st : FramerState) (r : Request) (s : State) : (issue st r s).env.ops = s.env.ops := by unfold issue takeAnswer; split <;> rfl
@[simp] theorem issue_txns (st : FramerState) (r : Request) (s : State) : (issue st r s).env.txns = s.env.txns := by unfold issue takeAnswer; split <;> rfl
@[simp] theorem issue_regReads (st : FramerState) (r : Request) (s : State) : (issue st r s).env.regReads = s.env.regReads := by unfold issue takeAnswer; split <;> rfl
@[simp] theorem issue_resets (st : FramerState) (r : Request) (s : State) : (issue st r s).env.resets = s.env.resets := by unfold issue takeAnswer; split <;> rfl
@[simp] theorem issue_busyLevels (st : FramerState) (r : Request) (s : State) : (issue st r s).env.busyLevels = s.env.busyLevels := by unfold issue takeAnswer; split <;> rfl
@[simp] theorem issue_packTimes (st : FramerState) (r : Request) (s : State) : (issue st r s).env.packTimes = s.env.packTimes := by unfold issue takeAnswer; split <;> rfl
@[simp] theorem issue_packLeft (st : FramerState) (r : Request) (s : State) : (issue st r s).env.packLeft = s.env.packLeft := by unfold issue takeAnswer; split <;> rfl
@[simp] theorem issue_trace (st : FramerState) (r : Request) (s : State) : (issue st r s).env.trace = s.env.trace := by unfold issue takeAnswer; split <;> rfl
@[simp] theorem issue_memReplies (st : FramerState) (r : Request) (s : State) : (issue st r s).env.memReplies = s.env.memReplies := by unfold issue takeAnswer; split <;> rfl
@[simp] theorem issue_regReplies (st : FramerState) (r : Request) (s : State) : (issue st r s).env.regReplies = s.env.regReplies := by unfold issue takeAnswer; split <;> rfl
@[simp] theorem issue_reached (st : FramerState) (r : Request) (s : State) : (issue st r s).env.reached = s.env.reached := by unfold issue takeAnswer; split <;> rfl
@[simp] theorem issue_framer (st : FramerState) (r : Request) (s : State) :
    (issue st r s).framer = st := rfl
@[simp] theorem issue_outstanding (st : FramerState) (r : Request) (s : State) :
    (issue st r s).env.outstanding =
      some ⟨r, s.env.now, (nextAnswer s.env).extra + 1, nextAnswer s.env⟩ := rfl
@[simp] theorem issue_answers (st : FramerState) (r : Request) (s : State) :
    (issue st r s).env.answers = s.env.answers.tail := by unfold issue takeAnswer; split <;> simp_all

/-! ### takeReply -/

@[simp] theorem takeReply_build (o : Outstanding) (s : State) : (takeReply o s).build = s.build := by unfold takeReply; cases o.req <;> simp
@[simp] theorem takeReply_cfg (o : Outstanding) (s : State) : (takeReply o s).cfg = s.cfg := by unfold takeReply; cases o.req <;> simp
@[simp] theorem takeReply_opState (o : Outstanding) (s : State) : (takeReply o s).opState = s.opState := by unfold takeReply; cases o.req <;> simp
@[simp] theorem takeReply_curOp (o : Outstanding) (s : State) : (takeReply o s).curOp = s.curOp := by unfold takeReply; cases o.req <;> simp
@[simp] theorem takeReply_result (o : Outstanding) (s : State) : (takeReply o s).result = s.result := by unfold takeReply; cases o.req <;> simp
@[simp] theorem takeReply_lastOp (o : Outstanding) (s : State) : (takeReply o s).lastOp = s.lastOp := by unfold takeReply; cases o.req <;> simp
@[simp] theorem takeReply_framer (o : Outstanding) (s : State) : (takeReply o s).framer = s.framer := by unfold takeReply; cases o.req <;> simp
@[simp] theorem takeReply_fcnt (o : Outstanding) (s : State) : (takeReply o s).fcnt = s.fcnt := by unfold takeReply; cases o.req <;> simp
@[simp] theorem takeReply_sync (o : Outstanding) (s : State) : (takeReply o s).sync = s.sync := by unfold takeReply; cases o.req <;> simp
@[simp] theorem takeReply_elapsed (o : Outstanding) (s : State) : (takeReply o s).elapsed = s.elapsed := by unfold takeReply; cases o.req <;> simp
@[simp] theorem takeReply_samples (o : Outstanding) (s : State) : (takeReply o s).samples = s.samples := by unfold takeReply; cases o.req <;> simp
@[simp] theorem takeReply_notify (o : Outstanding) (s : State) : (takeReply o s).notify = s.notify := by unfold takeReply; cases o.req <;> simp
@[simp] theorem takeReply_packer (o : Outstanding) (s : State) : (takeReply o s).packer = s.packer := by unfold takeReply; cases o.req <;> simp
@[simp] theorem takeReply_pbuf (o : Outstanding) (s : State) : (takeReply o s).pbuf = s.pbuf := by unfold takeReply; cases o.req <;> simp
@[simp] theorem takeReply_src (o : Outstanding) (s : State) : (takeReply o s).src = s.src := by unfold takeReply; cases o.req <;> simp
@[simp] theorem takeReply_faulted (o : Outstanding) (s : State) : (takeReply o s).faulted = s.faulted := by unfold takeReply; cases o.req <;> simp
@[simp] theorem takeReply_now (o : Outstanding) (s : State) : (takeReply o s).env.now = s.env.now := by unfold takeReply; cases o.req <;> simp
@[simp] theorem takeReply_ops (o : Outstanding) (s : State) : (takeReply o s).env.ops = s.env.ops := by unfold takeReply; cases o.req <;> simp
@[simp] theorem takeReply_txns (o : Outstanding) (s : State) : (takeReply o s).env.txns = s.env.txns := by unfold takeReply; cases o.req <;> simp
@[simp] theorem takeReply_regReads (o : Outstanding) (s : State) : (takeReply o s).env.regReads = s.env.regReads := by unfold takeReply; cases o.req <;> simp
@[simp] theorem takeReply_resets (o : Outstanding) (s : State) : (takeReply o s).env.resets = s.env.resets := by unfold takeReply; cases o.req <;> simp
@[simp] theorem takeReply_answers (o : Outstanding) (s : State) : (takeReply o s).env.answers = s.env.answers := by unfold takeReply; cases o.req <;> simp
@[simp] theorem takeReply_busyLevels (o : Outstanding) (s : State) : (takeReply o s).env.busyLevels = s.env.busyLevels := by unfold takeReply; cases o.req <;> simp
@[simp] theorem takeReply_packTimes (o : Outstanding) (s : State) : (takeReply o s).env.packTimes = s.env.packTimes := by unfold takeReply; cases o.req <;> simp
@[simp] theorem takeReply_draws (o : Outstanding) (s : State) : (takeReply o s).env.draws = s.env.draws := by unfold takeReply; cases o.req <;> simp
@[simp] theorem takeReply_packLeft (o : Outstanding) (s : State) : (takeReply o s).env.packLeft = s.env.packLeft := by unfold takeReply; cases o.req <;> simp
@[simp] theorem takeReply_memReplies (o : Outstanding) (s : State) : (takeReply o s).env.memReplies = s.env.memReplies := by unfold takeReply; cases o.req <;> simp
@[simp] theorem takeReply_regReplies (o : Outstanding) (s : State) : (takeReply o s).env.regReplies = s.env.regReplies := by unfold takeReply; cases o.req <;> simp
@[simp] theorem takeReply_trace (o : Outstanding) (s : State) :
    (takeReply o s).env.trace =
      s.env.trace ++ [⟨o.issued, .request o.req (replyOf o.answer) s.env.now⟩] := by unfold takeReply; cases o.req <;> simp
@[simp] theorem takeReply_outstanding (o : Outstanding) (s : State) :
    (takeReply o s).env.outstanding = none := rfl
@[simp] theorem takeReply_reached (o : Outstanding) (s : State) :
    (takeReply o s).env.reached =
      s.env.reached ++ deliveredBytes o.req (replyOf o.answer) o.answer := by unfold takeReply; cases o.req <;> simp
@[simp] theorem takeReply_setPin_dcSh (l : Level) (n k : Nat) (a : Answer) (p : Pin) (s : State) :
    (takeReply ⟨.setPin p l, n, k, a⟩ s).dcSh =
      if p = .dc then (if a.ok then shadowOf l else .unknown) else s.dcSh := by cases p <;> simp [takeReply]
@[simp] theorem takeReply_setPin_csSh (l : Level) (n k : Nat) (a : Answer) (p : Pin) (s : State) :
    (takeReply ⟨.setPin p l, n, k, a⟩ s).csSh =
      if p = .cs then (if a.ok then shadowOf l else .unknown) else s.csSh := by cases p <;> simp [takeReply]
@[simp] theorem takeReply_setPin_rstSh (l : Level) (n k : Nat) (a : Answer) (p : Pin) (s : State) :
    (takeReply ⟨.setPin p l, n, k, a⟩ s).rstSh =
      if p = .rst then (if a.ok then shadowOf l else .unknown) else s.rstSh := by cases p <;> simp [takeReply]
@[simp] theorem takeReply_transmit_dcSh (bs : List Byte) (n k : Nat) (a : Answer) (s : State) :
    (takeReply ⟨.transmit bs, n, k, a⟩ s).dcSh = s.dcSh := rfl
@[simp] theorem takeReply_transmit_csSh (bs : List Byte) (n k : Nat) (a : Answer) (s : State) :
    (takeReply ⟨.transmit bs, n, k, a⟩ s).csSh = s.csSh := rfl
@[simp] theorem takeReply_transmit_rstSh (bs : List Byte) (n k : Nat) (a : Answer) (s : State) :
    (takeReply ⟨.transmit bs, n, k, a⟩ s).rstSh = s.rstSh := rfl

/-! ### accept -/

@[simp] theorem accept_build (w : Word) (s : State) : (accept w s).build = s.build := rfl
@[simp] theorem accept_cfg (w : Word) (s : State) : (accept w s).cfg = s.cfg := rfl
@[simp] theorem accept_framer (w : Word) (s : State) : (accept w s).framer = s.framer := rfl
@[simp] theorem accept_fcnt (w : Word) (s : State) : (accept w s).fcnt = s.fcnt := rfl
@[simp] theorem accept_sync (w : Word) (s : State) : (accept w s).sync = s.sync := rfl
@[simp] theorem accept_elapsed (w : Word) (s : State) : (accept w s).elapsed = s.elapsed := rfl
@[simp] theorem accept_samples (w : Word) (s : State) : (accept w s).samples = s.samples := rfl
@[simp] theorem accept_notify (w : Word) (s : State) : (accept w s).notify = s.notify := rfl
@[simp] theorem accept_packer (w : Word) (s : State) : (accept w s).packer = s.packer := rfl
@[simp] theorem accept_dcSh (w : Word) (s : State) : (accept w s).dcSh = s.dcSh := rfl
@[simp] theorem accept_csSh (w : Word) (s : State) : (accept w s).csSh = s.csSh := rfl
@[simp] theorem accept_rstSh (w : Word) (s : State) : (accept w s).rstSh = s.rstSh := rfl
@[simp] theorem accept_pbuf (w : Word) (s : State) : (accept w s).pbuf = s.pbuf := rfl
@[simp] theorem accept_src (w : Word) (s : State) : (accept w s).src = s.src := rfl
@[simp] theorem accept_faulted (w : Word) (s : State) : (accept w s).faulted = s.faulted := rfl
@[simp] theorem accept_env (w : Word) (s : State) : (accept w s).env = s.env := rfl
@[simp] theorem accept_curOp (w : Word) (s : State) :
    (accept w s).curOp = w := rfl
@[simp] theorem accept_lastOp (w : Word) (s : State) :
    (accept w s).lastOp = fieldOp w := rfl
@[simp] theorem accept_result (w : Word) (s : State) :
    (accept w s).result = .none := rfl
@[simp] theorem accept_opState (w : Word) (s : State) :
    (accept w s).opState = .busy := rfl

/-! ### finish -/

@[simp] theorem finish_build (code : Result) (s : State) : (finish code s).build = s.build := rfl
@[simp] theorem finish_cfg (code : Result) (s : State) : (finish code s).cfg = s.cfg := rfl
@[simp] theorem finish_curOp (code : Result) (s : State) : (finish code s).curOp = s.curOp := rfl
@[simp] theorem finish_lastOp (code : Result) (s : State) : (finish code s).lastOp = s.lastOp := rfl
@[simp] theorem finish_fcnt (code : Result) (s : State) : (finish code s).fcnt = s.fcnt := rfl
@[simp] theorem finish_elapsed (code : Result) (s : State) : (finish code s).elapsed = s.elapsed := rfl
@[simp] theorem finish_samples (code : Result) (s : State) : (finish code s).samples = s.samples := rfl
@[simp] theorem finish_notify (code : Result) (s : State) : (finish code s).notify = s.notify := rfl
@[simp] theorem finish_dcSh (code : Result) (s : State) : (finish code s).dcSh = s.dcSh := rfl
@[simp] theorem finish_csSh (code : Result) (s : State) : (finish code s).csSh = s.csSh := rfl
@[simp] theorem finish_rstSh (code : Result) (s : State) : (finish code s).rstSh = s.rstSh := rfl
@[simp] theorem finish_pbuf (code : Result) (s : State) : (finish code s).pbuf = s.pbuf := rfl
@[simp] theorem finish_src (code : Result) (s : State) : (finish code s).src = s.src := rfl
@[simp] theorem finish_faulted (code : Result) (s : State) : (finish code s).faulted = s.faulted := rfl
@[simp] theorem finish_now (code : Result) (s : State) : (finish code s).env.now = s.env.now := rfl
@[simp] theorem finish_ops (code : Result) (s : State) : (finish code s).env.ops = s.env.ops := rfl
@[simp] theorem finish_txns (code : Result) (s : State) : (finish code s).env.txns = s.env.txns := rfl
@[simp] theorem finish_regReads (code : Result) (s : State) : (finish code s).env.regReads = s.env.regReads := rfl
@[simp] theorem finish_resets (code : Result) (s : State) : (finish code s).env.resets = s.env.resets := rfl
@[simp] theorem finish_answers (code : Result) (s : State) : (finish code s).env.answers = s.env.answers := rfl
@[simp] theorem finish_busyLevels (code : Result) (s : State) : (finish code s).env.busyLevels = s.env.busyLevels := rfl
@[simp] theorem finish_packTimes (code : Result) (s : State) : (finish code s).env.packTimes = s.env.packTimes := rfl
@[simp] theorem finish_draws (code : Result) (s : State) : (finish code s).env.draws = s.env.draws := rfl
@[simp] theorem finish_outstanding (code : Result) (s : State) : (finish code s).env.outstanding = s.env.outstanding := rfl
@[simp] theorem finish_packLeft (code : Result) (s : State) : (finish code s).env.packLeft = s.env.packLeft := rfl
@[simp] theorem finish_memReplies (code : Result) (s : State) : (finish code s).env.memReplies = s.env.memReplies := rfl
@[simp] theorem finish_regReplies (code : Result) (s : State) : (finish code s).env.regReplies = s.env.regReplies := rfl
@[simp] theorem finish_reached (code : Result) (s : State) : (finish code s).env.reached = s.env.reached := rfl
@[simp] theorem finish_result (code : Result) (s : State) :
    (finish code s).result = code := rfl
@[simp] theorem finish_opState (code : Result) (s : State) :
    (finish code s).opState = .idle := rfl
@[simp] theorem finish_framer (code : Result) (s : State) :
    (finish code s).framer = .fIdle := rfl
@[simp] theorem finish_sync (code : Result) (s : State) :
    (finish code s).sync = .sIdle := rfl
@[simp] theorem finish_packer (code : Result) (s : State) :
    (finish code s).packer = .pIdle := rfl
@[simp] theorem finish_trace (code : Result) (s : State) :
    (finish code s).env.trace = s.env.trace ++ [⟨s.env.now, .done s.curOp code⟩] := rfl

/-! ### startPack -/

@[simp] theorem startPack_build (s : State) : (startPack s).build = s.build := by unfold startPack takePackTime; split <;> rfl
@[simp] theorem startPack_cfg (s : State) : (startPack s).cfg = s.cfg := by unfold startPack takePackTime; split <;> rfl
@[simp] theorem startPack_opState (s : State) : (startPack s).opState = s.opState := by unfold startPack takePackTime; split <;> rfl
@[simp] theorem startPack_curOp (s : State) : (startPack s).curOp = s.curOp := by unfold startPack takePackTime; split <;> rfl
@[simp] theorem startPack_result (s : State) : (startPack s).result = s.result := by unfold startPack takePackTime; split <;> rfl
@[simp] theorem startPack_lastOp (s : State) : (startPack s).lastOp = s.lastOp := by unfold startPack takePackTime; split <;> rfl
@[simp] theorem startPack_framer (s : State) : (startPack s).framer = s.framer := by unfold startPack takePackTime; split <;> rfl
@[simp] theorem startPack_fcnt (s : State) : (startPack s).fcnt = s.fcnt := by unfold startPack takePackTime; split <;> rfl
@[simp] theorem startPack_sync (s : State) : (startPack s).sync = s.sync := by unfold startPack takePackTime; split <;> rfl
@[simp] theorem startPack_elapsed (s : State) : (startPack s).elapsed = s.elapsed := by unfold startPack takePackTime; split <;> rfl
@[simp] theorem startPack_samples (s : State) : (startPack s).samples = s.samples := by unfold startPack takePackTime; split <;> rfl
@[simp] theorem startPack_notify (s : State) : (startPack s).notify = s.notify := by unfold startPack takePackTime; split <;> rfl
@[simp] theorem startPack_dcSh (s : State) : (startPack s).dcSh = s.dcSh := by unfold startPack takePackTime; split <;> rfl
@[simp] theorem startPack_csSh (s : State) : (startPack s).csSh = s.csSh := by unfold startPack takePackTime; split <;> rfl
@[simp] theorem startPack_rstSh (s : State) : (startPack s).rstSh = s.rstSh := by unfold startPack takePackTime; split <;> rfl
@[simp] theorem startPack_pbuf (s : State) : (startPack s).pbuf = s.pbuf := by unfold startPack takePackTime; split <;> rfl
@[simp] theorem startPack_src (s : State) : (startPack s).src = s.src := by unfold startPack takePackTime; split <;> rfl
@[simp] theorem startPack_faulted (s : State) : (startPack s).faulted = s.faulted := by unfold startPack takePackTime; split <;> rfl
@[simp] theorem startPack_now (s : State) : (startPack s).env.now = s.env.now := by unfold startPack takePackTime; split <;> rfl
@[simp] theorem startPack_ops (s : State) : (startPack s).env.ops = s.env.ops := by unfold startPack takePackTime; split <;> rfl
@[simp] theorem startPack_txns (s : State) : (startPack s).env.txns = s.env.txns := by unfold startPack takePackTime; split <;> rfl
@[simp] theorem startPack_regReads (s : State) : (startPack s).env.regReads = s.env.regReads := by unfold startPack takePackTime; split <;> rfl
@[simp] theorem startPack_resets (s : State) : (startPack s).env.resets = s.env.resets := by unfold startPack takePackTime; split <;> rfl
@[simp] theorem startPack_answers (s : State) : (startPack s).env.answers = s.env.answers := by unfold startPack takePackTime; split <;> rfl
@[simp] theorem startPack_busyLevels (s : State) : (startPack s).env.busyLevels = s.env.busyLevels := by unfold startPack takePackTime; split <;> rfl
@[simp] theorem startPack_outstanding (s : State) : (startPack s).env.outstanding = s.env.outstanding := by unfold startPack takePackTime; split <;> rfl
@[simp] theorem startPack_trace (s : State) : (startPack s).env.trace = s.env.trace := by unfold startPack takePackTime; split <;> rfl
@[simp] theorem startPack_memReplies (s : State) : (startPack s).env.memReplies = s.env.memReplies := by unfold startPack takePackTime; split <;> rfl
@[simp] theorem startPack_regReplies (s : State) : (startPack s).env.regReplies = s.env.regReplies := by unfold startPack takePackTime; split <;> rfl
@[simp] theorem startPack_reached (s : State) : (startPack s).env.reached = s.env.reached := by unfold startPack takePackTime; split <;> rfl
@[simp] theorem startPack_packer (s : State) :
    (startPack s).packer = .pRun := rfl
@[simp] theorem startPack_packLeft (s : State) :
    (startPack s).env.packLeft = nextPackTime s.env + 1 := rfl

/-! ### enterWait -/

@[simp] theorem enterWait_build (s : State) : (enterWait s).build = s.build := by unfold enterWait; dsimp only; split <;> rfl
@[simp] theorem enterWait_cfg (s : State) : (enterWait s).cfg = s.cfg := by unfold enterWait; dsimp only; split <;> rfl
@[simp] theorem enterWait_opState (s : State) : (enterWait s).opState = s.opState := by unfold enterWait; dsimp only; split <;> rfl
@[simp] theorem enterWait_curOp (s : State) : (enterWait s).curOp = s.curOp := by unfold enterWait; dsimp only; split <;> rfl
@[simp] theorem enterWait_result (s : State) : (enterWait s).result = s.result := by unfold enterWait; dsimp only; split <;> rfl
@[simp] theorem enterWait_lastOp (s : State) : (enterWait s).lastOp = s.lastOp := by unfold enterWait; dsimp only; split <;> rfl
@[simp] theorem enterWait_framer (s : State) : (enterWait s).framer = s.framer := by unfold enterWait; dsimp only; split <;> rfl
@[simp] theorem enterWait_fcnt (s : State) : (enterWait s).fcnt = s.fcnt := by unfold enterWait; dsimp only; split <;> rfl
@[simp] theorem enterWait_packer (s : State) : (enterWait s).packer = s.packer := by unfold enterWait; dsimp only; split <;> rfl
@[simp] theorem enterWait_dcSh (s : State) : (enterWait s).dcSh = s.dcSh := by unfold enterWait; dsimp only; split <;> rfl
@[simp] theorem enterWait_csSh (s : State) : (enterWait s).csSh = s.csSh := by unfold enterWait; dsimp only; split <;> rfl
@[simp] theorem enterWait_rstSh (s : State) : (enterWait s).rstSh = s.rstSh := by unfold enterWait; dsimp only; split <;> rfl
@[simp] theorem enterWait_pbuf (s : State) : (enterWait s).pbuf = s.pbuf := by unfold enterWait; dsimp only; split <;> rfl
@[simp] theorem enterWait_src (s : State) : (enterWait s).src = s.src := by unfold enterWait; dsimp only; split <;> rfl
@[simp] theorem enterWait_faulted (s : State) : (enterWait s).faulted = s.faulted := by unfold enterWait; dsimp only; split <;> rfl
@[simp] theorem enterWait_now (s : State) : (enterWait s).env.now = s.env.now := by unfold enterWait; dsimp only; split <;> rfl
@[simp] theorem enterWait_ops (s : State) : (enterWait s).env.ops = s.env.ops := by unfold enterWait; dsimp only; split <;> rfl
@[simp] theorem enterWait_txns (s : State) : (enterWait s).env.txns = s.env.txns := by unfold enterWait; dsimp only; split <;> rfl
@[simp] theorem enterWait_regReads (s : State) : (enterWait s).env.regReads = s.env.regReads := by unfold enterWait; dsimp only; split <;> rfl
@[simp] theorem enterWait_resets (s : State) : (enterWait s).env.resets = s.env.resets := by unfold enterWait; dsimp only; split <;> rfl
@[simp] theorem enterWait_answers (s : State) : (enterWait s).env.answers = s.env.answers := by unfold enterWait; dsimp only; split <;> rfl
@[simp] theorem enterWait_busyLevels (s : State) : (enterWait s).env.busyLevels = s.env.busyLevels := by unfold enterWait; dsimp only; split <;> rfl
@[simp] theorem enterWait_packTimes (s : State) : (enterWait s).env.packTimes = s.env.packTimes := by unfold enterWait; dsimp only; split <;> rfl
@[simp] theorem enterWait_draws (s : State) : (enterWait s).env.draws = s.env.draws := by unfold enterWait; dsimp only; split <;> rfl
@[simp] theorem enterWait_outstanding (s : State) : (enterWait s).env.outstanding = s.env.outstanding := by unfold enterWait; dsimp only; split <;> rfl
@[simp] theorem enterWait_packLeft (s : State) : (enterWait s).env.packLeft = s.env.packLeft := by unfold enterWait; dsimp only; split <;> rfl
@[simp] theorem enterWait_memReplies (s : State) : (enterWait s).env.memReplies = s.env.memReplies := by unfold enterWait; dsimp only; split <;> rfl
@[simp] theorem enterWait_regReplies (s : State) : (enterWait s).env.regReplies = s.env.regReplies := by unfold enterWait; dsimp only; split <;> rfl
@[simp] theorem enterWait_reached (s : State) : (enterWait s).env.reached = s.env.reached := by unfold enterWait; dsimp only; split <;> rfl
@[simp] theorem enterWait_sync (s : State) :
    (enterWait s).sync = .sPoll := by unfold enterWait; dsimp only; split <;> rfl
@[simp] theorem enterWait_elapsed (s : State) :
    (enterWait s).elapsed = 0 := by unfold enterWait; dsimp only; split <;> rfl
@[simp] theorem enterWait_samples (s : State) :
    (enterWait s).samples = 0 := by unfold enterWait; dsimp only; split <;> rfl
@[simp] theorem enterWait_notify (s : State) :
    (enterWait s).notify = (s.cfg.notifyEn || s.notify) := by unfold enterWait; dsimp only; split <;> simp_all

/-! ### sampleBusy -/

@[simp] theorem sampleBusy_build (s : State) : (sampleBusy s).build = s.build := by unfold sampleBusy takeBusy; split <;> rfl
@[simp] theorem sampleBusy_cfg (s : State) : (sampleBusy s).cfg = s.cfg := by unfold sampleBusy takeBusy; split <;> rfl
@[simp] theorem sampleBusy_opState (s : State) : (sampleBusy s).opState = s.opState := by unfold sampleBusy takeBusy; split <;> rfl
@[simp] theorem sampleBusy_curOp (s : State) : (sampleBusy s).curOp = s.curOp := by unfold sampleBusy takeBusy; split <;> rfl
@[simp] theorem sampleBusy_result (s : State) : (sampleBusy s).result = s.result := by unfold sampleBusy takeBusy; split <;> rfl
@[simp] theorem sampleBusy_lastOp (s : State) : (sampleBusy s).lastOp = s.lastOp := by unfold sampleBusy takeBusy; split <;> rfl
@[simp] theorem sampleBusy_framer (s : State) : (sampleBusy s).framer = s.framer := by unfold sampleBusy takeBusy; split <;> rfl
@[simp] theorem sampleBusy_fcnt (s : State) : (sampleBusy s).fcnt = s.fcnt := by unfold sampleBusy takeBusy; split <;> rfl
@[simp] theorem sampleBusy_sync (s : State) : (sampleBusy s).sync = s.sync := by unfold sampleBusy takeBusy; split <;> rfl
@[simp] theorem sampleBusy_elapsed (s : State) : (sampleBusy s).elapsed = s.elapsed := by unfold sampleBusy takeBusy; split <;> rfl
@[simp] theorem sampleBusy_notify (s : State) : (sampleBusy s).notify = s.notify := by unfold sampleBusy takeBusy; split <;> rfl
@[simp] theorem sampleBusy_packer (s : State) : (sampleBusy s).packer = s.packer := by unfold sampleBusy takeBusy; split <;> rfl
@[simp] theorem sampleBusy_dcSh (s : State) : (sampleBusy s).dcSh = s.dcSh := by unfold sampleBusy takeBusy; split <;> rfl
@[simp] theorem sampleBusy_csSh (s : State) : (sampleBusy s).csSh = s.csSh := by unfold sampleBusy takeBusy; split <;> rfl
@[simp] theorem sampleBusy_rstSh (s : State) : (sampleBusy s).rstSh = s.rstSh := by unfold sampleBusy takeBusy; split <;> rfl
@[simp] theorem sampleBusy_pbuf (s : State) : (sampleBusy s).pbuf = s.pbuf := by unfold sampleBusy takeBusy; split <;> rfl
@[simp] theorem sampleBusy_src (s : State) : (sampleBusy s).src = s.src := by unfold sampleBusy takeBusy; split <;> rfl
@[simp] theorem sampleBusy_faulted (s : State) : (sampleBusy s).faulted = s.faulted := by unfold sampleBusy takeBusy; split <;> rfl
@[simp] theorem sampleBusy_now (s : State) : (sampleBusy s).env.now = s.env.now := by unfold sampleBusy takeBusy; split <;> rfl
@[simp] theorem sampleBusy_ops (s : State) : (sampleBusy s).env.ops = s.env.ops := by unfold sampleBusy takeBusy; split <;> rfl
@[simp] theorem sampleBusy_txns (s : State) : (sampleBusy s).env.txns = s.env.txns := by unfold sampleBusy takeBusy; split <;> rfl
@[simp] theorem sampleBusy_regReads (s : State) : (sampleBusy s).env.regReads = s.env.regReads := by unfold sampleBusy takeBusy; split <;> rfl
@[simp] theorem sampleBusy_resets (s : State) : (sampleBusy s).env.resets = s.env.resets := by unfold sampleBusy takeBusy; split <;> rfl
@[simp] theorem sampleBusy_answers (s : State) : (sampleBusy s).env.answers = s.env.answers := by unfold sampleBusy takeBusy; split <;> rfl
@[simp] theorem sampleBusy_packTimes (s : State) : (sampleBusy s).env.packTimes = s.env.packTimes := by unfold sampleBusy takeBusy; split <;> rfl
@[simp] theorem sampleBusy_outstanding (s : State) : (sampleBusy s).env.outstanding = s.env.outstanding := by unfold sampleBusy takeBusy; split <;> rfl
@[simp] theorem sampleBusy_packLeft (s : State) : (sampleBusy s).env.packLeft = s.env.packLeft := by unfold sampleBusy takeBusy; split <;> rfl
@[simp] theorem sampleBusy_memReplies (s : State) : (sampleBusy s).env.memReplies = s.env.memReplies := by unfold sampleBusy takeBusy; split <;> rfl
@[simp] theorem sampleBusy_regReplies (s : State) : (sampleBusy s).env.regReplies = s.env.regReplies := by unfold sampleBusy takeBusy; split <;> rfl
@[simp] theorem sampleBusy_reached (s : State) : (sampleBusy s).env.reached = s.env.reached := by unfold sampleBusy takeBusy; split <;> rfl
@[simp] theorem sampleBusy_samples (s : State) :
    (sampleBusy s).samples = s.samples + 1 := rfl
@[simp] theorem sampleBusy_trace (s : State) :
    (sampleBusy s).env.trace = s.env.trace ++ [⟨s.env.now, .readPin (nextBusy s.env)⟩] := by unfold sampleBusy takeBusy; split <;> rfl
@[simp] theorem sampleBusy_busyLevels (s : State) :
    (sampleBusy s).env.busyLevels = s.env.busyLevels.tail := by unfold sampleBusy takeBusy; split <;> simp_all

/-! ### exitWait -/

@[simp] theorem exitWait_build (code : Result) (s : State) : (exitWait code s).build = s.build := by unfold exitWait; split <;> rfl
@[simp] theorem exitWait_cfg (code : Result) (s : State) : (exitWait code s).cfg = s.cfg := by unfold exitWait; split <;> rfl
@[simp] theorem exitWait_curOp (code : Result) (s : State) : (exitWait code s).curOp = s.curOp := by unfold exitWait; split <;> rfl
@[simp] theorem exitWait_lastOp (code : Result) (s : State) : (exitWait code s).lastOp = s.lastOp := by unfold exitWait; split <;> rfl
@[simp] theorem exitWait_fcnt (code : Result) (s : State) : (exitWait code s).fcnt = s.fcnt := by unfold exitWait; split <;> rfl
@[simp] theorem exitWait_elapsed (code : Result) (s : State) : (exitWait code s).elapsed = s.elapsed := by unfold exitWait; split <;> rfl
@[simp] theorem exitWait_samples (code : Result) (s : State) : (exitWait code s).samples = s.samples := by unfold exitWait; split <;> rfl
@[simp] theorem exitWait_dcSh (code : Result) (s : State) : (exitWait code s).dcSh = s.dcSh := by unfold exitWait; split <;> rfl
@[simp] theorem exitWait_csSh (code : Result) (s : State) : (exitWait code s).csSh = s.csSh := by unfold exitWait; split <;> rfl
@[simp] theorem exitWait_rstSh (code : Result) (s : State) : (exitWait code s).rstSh = s.rstSh := by unfold exitWait; split <;> rfl
@[simp] theorem exitWait_pbuf (code : Result) (s : State) : (exitWait code s).pbuf = s.pbuf := by unfold exitWait; split <;> rfl
@[simp] theorem exitWait_src (code : Result) (s : State) : (exitWait code s).src = s.src := by unfold exitWait; split <;> rfl
@[simp] theorem exitWait_faulted (code : Result) (s : State) : (exitWait code s).faulted = s.faulted := by unfold exitWait; split <;> rfl
@[simp] theorem exitWait_now (code : Result) (s : State) : (exitWait code s).env.now = s.env.now := by unfold exitWait; split <;> rfl
@[simp] theorem exitWait_ops (code : Result) (s : State) : (exitWait code s).env.ops = s.env.ops := by unfold exitWait; split <;> rfl
@[simp] theorem exitWait_txns (code : Result) (s : State) : (exitWait code s).env.txns = s.env.txns := by unfold exitWait; split <;> rfl
@[simp] theorem exitWait_regReads (code : Result) (s : State) : (exitWait code s).env.regReads = s.env.regReads := by unfold exitWait; split <;> rfl
@[simp] theorem exitWait_resets (code : Result) (s : State) : (exitWait code s).env.resets = s.env.resets := by unfold exitWait; split <;> rfl
@[simp] theorem exitWait_answers (code : Result) (s : State) : (exitWait code s).env.answers = s.env.answers := by unfold exitWait; split <;> rfl
@[simp] theorem exitWait_busyLevels (code : Result) (s : State) : (exitWait code s).env.busyLevels = s.env.busyLevels := by unfold exitWait; split <;> rfl
@[simp] theorem exitWait_packTimes (code : Result) (s : State) : (exitWait code s).env.packTimes = s.env.packTimes := by unfold exitWait; split <;> rfl
@[simp] theorem exitWait_draws (code : Result) (s : State) : (exitWait code s).env.draws = s.env.draws := by unfold exitWait; split <;> rfl
@[simp] theorem exitWait_outstanding (code : Result) (s : State) : (exitWait code s).env.outstanding = s.env.outstanding := by unfold exitWait; split <;> rfl
@[simp] theorem exitWait_packLeft (code : Result) (s : State) : (exitWait code s).env.packLeft = s.env.packLeft := by unfold exitWait; split <;> rfl
@[simp] theorem exitWait_memReplies (code : Result) (s : State) : (exitWait code s).env.memReplies = s.env.memReplies := by unfold exitWait; split <;> rfl
@[simp] theorem exitWait_regReplies (code : Result) (s : State) : (exitWait code s).env.regReplies = s.env.regReplies := by unfold exitWait; split <;> rfl
@[simp] theorem exitWait_reached (code : Result) (s : State) : (exitWait code s).env.reached = s.env.reached := by unfold exitWait; split <;> rfl
@[simp] theorem exitWait_result (code : Result) (s : State) :
    (exitWait code s).result = code := rfl
@[simp] theorem exitWait_opState (code : Result) (s : State) :
    (exitWait code s).opState = .idle := rfl
@[simp] theorem exitWait_framer (code : Result) (s : State) :
    (exitWait code s).framer = .fIdle := rfl
@[simp] theorem exitWait_sync (code : Result) (s : State) :
    (exitWait code s).sync = .sIdle := rfl
@[simp] theorem exitWait_packer (code : Result) (s : State) :
    (exitWait code s).packer = .pIdle := rfl
@[simp] theorem exitWait_notify (code : Result) (s : State) :
    (exitWait code s).notify = (!s.cfg.notifyEn && s.notify) := by unfold exitWait; split <;> simp_all

/-! ### dropOutstanding -/

@[simp] theorem dropOutstanding_build (s : State) : (dropOutstanding s).build = s.build := by unfold dropOutstanding; split <;> rfl
@[simp] theorem dropOutstanding_cfg (s : State) : (dropOutstanding s).cfg = s.cfg := by unfold dropOutstanding; split <;> rfl
@[simp] theorem dropOutstanding_opState (s : State) : (dropOutstanding s).opState = s.opState := by unfold dropOutstanding; split <;> rfl
@[simp] theorem dropOutstanding_curOp (s : State) : (dropOutstanding s).curOp = s.curOp := by unfold dropOutstanding; split <;> rfl
@[simp] theorem dropOutstanding_result (s : State) : (dropOutstanding s).result = s.result := by unfold dropOutstanding; split <;> rfl
@[simp] theorem dropOutstanding_lastOp (s : State) : (dropOutstanding s).lastOp = s.lastOp := by unfold dropOutstanding; split <;> rfl
@[simp] theorem dropOutstanding_framer (s : State) : (dropOutstanding s).framer = s.framer := by unfold dropOutstanding; split <;> rfl
@[simp] theorem dropOutstanding_fcnt (s : State) : (dropOutstanding s).fcnt = s.fcnt := by unfold dropOutstanding; split <;> rfl
@[simp] theorem dropOutstanding_sync (s : State) : (dropOutstanding s).sync = s.sync := by unfold dropOutstanding; split <;> rfl
@[simp] theorem dropOutstanding_elapsed (s : State) : (dropOutstanding s).elapsed = s.elapsed := by unfold dropOutstanding; split <;> rfl
@[simp] theorem dropOutstanding_samples (s : State) : (dropOutstanding s).samples = s.samples := by unfold dropOutstanding; split <;> rfl
@[simp] theorem dropOutstanding_notify (s : State) : (dropOutstanding s).notify = s.notify := by unfold dropOutstanding; split <;> rfl
@[simp] theorem dropOutstanding_packer (s : State) : (dropOutstanding s).packer = s.packer := by unfold dropOutstanding; split <;> rfl
@[simp] theorem dropOutstanding_dcSh (s : State) : (dropOutstanding s).dcSh = s.dcSh := by unfold dropOutstanding; split <;> rfl
@[simp] theorem dropOutstanding_csSh (s : State) : (dropOutstanding s).csSh = s.csSh := by unfold dropOutstanding; split <;> rfl
@[simp] theorem dropOutstanding_rstSh (s : State) : (dropOutstanding s).rstSh = s.rstSh := by unfold dropOutstanding; split <;> rfl
@[simp] theorem dropOutstanding_pbuf (s : State) : (dropOutstanding s).pbuf = s.pbuf := by unfold dropOutstanding; split <;> rfl
@[simp] theorem dropOutstanding_src (s : State) : (dropOutstanding s).src = s.src := by unfold dropOutstanding; split <;> rfl
@[simp] theorem dropOutstanding_faulted (s : State) : (dropOutstanding s).faulted = s.faulted := by unfold dropOutstanding; split <;> rfl
@[simp] theorem dropOutstanding_now (s : State) : (dropOutstanding s).env.now = s.env.now := by unfold dropOutstanding; split <;> rfl
@[simp] theorem dropOutstanding_ops (s : State) : (dropOutstanding s).env.ops = s.env.ops := by unfold dropOutstanding; split <;> rfl
@[simp] theorem dropOutstanding_txns (s : State) : (dropOutstanding s).env.txns = s.env.txns := by unfold dropOutstanding; split <;> rfl
@[simp] theorem dropOutstanding_regReads (s : State) : (dropOutstanding s).env.regReads = s.env.regReads := by unfold dropOutstanding; split <;> rfl
@[simp] theorem dropOutstanding_resets (s : State) : (dropOutstanding s).env.resets = s.env.resets := by unfold dropOutstanding; split <;> rfl
@[simp] theorem dropOutstanding_answers (s : State) : (dropOutstanding s).env.answers = s.env.answers := by unfold dropOutstanding; split <;> rfl
@[simp] theorem dropOutstanding_busyLevels (s : State) : (dropOutstanding s).env.busyLevels = s.env.busyLevels := by unfold dropOutstanding; split <;> rfl
@[simp] theorem dropOutstanding_packTimes (s : State) : (dropOutstanding s).env.packTimes = s.env.packTimes := by unfold dropOutstanding; split <;> rfl
@[simp] theorem dropOutstanding_draws (s : State) : (dropOutstanding s).env.draws = s.env.draws := by unfold dropOutstanding; split <;> rfl
@[simp] theorem dropOutstanding_packLeft (s : State) : (dropOutstanding s).env.packLeft = s.env.packLeft := by unfold dropOutstanding; split <;> rfl
@[simp] theorem dropOutstanding_memReplies (s : State) : (dropOutstanding s).env.memReplies = s.env.memReplies := by unfold dropOutstanding; split <;> rfl
@[simp] theorem dropOutstanding_regReplies (s : State) : (dropOutstanding s).env.regReplies = s.env.regReplies := by unfold dropOutstanding; split <;> rfl
@[simp] theorem dropOutstanding_outstanding (s : State) :
    (dropOutstanding s).env.outstanding = none := by unfold dropOutstanding; split <;> simp_all

/-! ### replyMem -/

@[simp] theorem replyMem_build (d : Option Byte) (m : Bool) (s : State) : (replyMem d m s).build = s.build := rfl
@[simp] theorem replyMem_cfg (d : Option Byte) (m : Bool) (s : State) : (replyMem d m s).cfg = s.cfg := rfl
@[simp] theorem replyMem_opState (d : Option Byte) (m : Bool) (s : State) : (replyMem d m s).opState = s.opState := rfl
@[simp] theorem replyMem_curOp (d : Option Byte) (m : Bool) (s : State) : (replyMem d m s).curOp = s.curOp := rfl
@[simp] theorem replyMem_result (d : Option Byte) (m : Bool) (s : State) : (replyMem d m s).result = s.result := rfl
@[simp] theorem replyMem_lastOp (d : Option Byte) (m : Bool) (s : State) : (replyMem d m s).lastOp = s.lastOp := rfl
@[simp] theorem replyMem_framer (d : Option Byte) (m : Bool) (s : State) : (replyMem d m s).framer = s.framer := rfl
@[simp] theorem replyMem_fcnt (d : Option Byte) (m : Bool) (s : State) : (replyMem d m s).fcnt = s.fcnt := rfl
@[simp] theorem replyMem_sync (d : Option Byte) (m : Bool) (s : State) : (replyMem d m s).sync = s.sync := rfl
@[simp] theorem replyMem_elapsed (d : Option Byte) (m : Bool) (s : State) : (replyMem d m s).elapsed = s.elapsed := rfl
@[simp] theorem replyMem_samples (d : Option Byte) (m : Bool) (s : State) : (replyMem d m s).samples = s.samples := rfl
@[simp] theorem replyMem_notify (d : Option Byte) (m : Bool) (s : State) : (replyMem d m s).notify = s.notify := rfl
@[simp] theorem replyMem_packer (d : Option Byte) (m : Bool) (s : State) : (replyMem d m s).packer = s.packer := rfl
@[simp] theorem replyMem_dcSh (d : Option Byte) (m : Bool) (s : State) : (replyMem d m s).dcSh = s.dcSh := rfl
@[simp] theorem replyMem_csSh (d : Option Byte) (m : Bool) (s : State) : (replyMem d m s).csSh = s.csSh := rfl
@[simp] theorem replyMem_rstSh (d : Option Byte) (m : Bool) (s : State) : (replyMem d m s).rstSh = s.rstSh := rfl
@[simp] theorem replyMem_pbuf (d : Option Byte) (m : Bool) (s : State) : (replyMem d m s).pbuf = s.pbuf := rfl
@[simp] theorem replyMem_src (d : Option Byte) (m : Bool) (s : State) : (replyMem d m s).src = s.src := rfl
@[simp] theorem replyMem_faulted (d : Option Byte) (m : Bool) (s : State) : (replyMem d m s).faulted = s.faulted := rfl
@[simp] theorem replyMem_now (d : Option Byte) (m : Bool) (s : State) : (replyMem d m s).env.now = s.env.now := rfl
@[simp] theorem replyMem_ops (d : Option Byte) (m : Bool) (s : State) : (replyMem d m s).env.ops = s.env.ops := rfl
@[simp] theorem replyMem_txns (d : Option Byte) (m : Bool) (s : State) : (replyMem d m s).env.txns = s.env.txns := rfl
@[simp] theorem replyMem_regReads (d : Option Byte) (m : Bool) (s : State) : (replyMem d m s).env.regReads = s.env.regReads := rfl
@[simp] theorem replyMem_resets (d : Option Byte) (m : Bool) (s : State) : (replyMem d m s).env.resets = s.env.resets := rfl
@[simp] theorem replyMem_answers (d : Option Byte) (m : Bool) (s : State) : (replyMem d m s).env.answers = s.env.answers := rfl
@[simp] theorem replyMem_busyLevels (d : Option Byte) (m : Bool) (s : State) : (replyMem d m s).env.busyLevels = s.env.busyLevels := rfl
@[simp] theorem replyMem_packTimes (d : Option Byte) (m : Bool) (s : State) : (replyMem d m s).env.packTimes = s.env.packTimes := rfl
@[simp] theorem replyMem_draws (d : Option Byte) (m : Bool) (s : State) : (replyMem d m s).env.draws = s.env.draws := rfl
@[simp] theorem replyMem_outstanding (d : Option Byte) (m : Bool) (s : State) : (replyMem d m s).env.outstanding = s.env.outstanding := rfl
@[simp] theorem replyMem_packLeft (d : Option Byte) (m : Bool) (s : State) : (replyMem d m s).env.packLeft = s.env.packLeft := rfl
@[simp] theorem replyMem_trace (d : Option Byte) (m : Bool) (s : State) : (replyMem d m s).env.trace = s.env.trace := rfl
@[simp] theorem replyMem_regReplies (d : Option Byte) (m : Bool) (s : State) : (replyMem d m s).env.regReplies = s.env.regReplies := rfl
@[simp] theorem replyMem_reached (d : Option Byte) (m : Bool) (s : State) : (replyMem d m s).env.reached = s.env.reached := rfl
@[simp] theorem replyMem_memReplies (d : Option Byte) (m : Bool) (s : State) :
    (replyMem d m s).env.memReplies = s.env.memReplies ++ [⟨s.env.now, d, m⟩] := rfl

/-! ### takeWord -/

@[simp] theorem takeWord_build (s : State) : (takeWord s).build = s.build := rfl
@[simp] theorem takeWord_cfg (s : State) : (takeWord s).cfg = s.cfg := rfl
@[simp] theorem takeWord_opState (s : State) : (takeWord s).opState = s.opState := rfl
@[simp] theorem takeWord_curOp (s : State) : (takeWord s).curOp = s.curOp := rfl
@[simp] theorem takeWord_result (s : State) : (takeWord s).result = s.result := rfl
@[simp] theorem takeWord_lastOp (s : State) : (takeWord s).lastOp = s.lastOp := rfl
@[simp] theorem takeWord_framer (s : State) : (takeWord s).framer = s.framer := rfl
@[simp] theorem takeWord_fcnt (s : State) : (takeWord s).fcnt = s.fcnt := rfl
@[simp] theorem takeWord_sync (s : State) : (takeWord s).sync = s.sync := rfl
@[simp] theorem takeWord_elapsed (s : State) : (takeWord s).elapsed = s.elapsed := rfl
@[simp] theorem takeWord_samples (s : State) : (takeWord s).samples = s.samples := rfl
@[simp] theorem takeWord_notify (s : State) : (takeWord s).notify = s.notify := rfl
@[simp] theorem takeWord_packer (s : State) : (takeWord s).packer = s.packer := rfl
@[simp] theorem takeWord_dcSh (s : State) : (takeWord s).dcSh = s.dcSh := rfl
@[simp] theorem takeWord_csSh (s : State) : (takeWord s).csSh = s.csSh := rfl
@[simp] theorem takeWord_rstSh (s : State) : (takeWord s).rstSh = s.rstSh := rfl
@[simp] theorem takeWord_pbuf (s : State) : (takeWord s).pbuf = s.pbuf := rfl
@[simp] theorem takeWord_src (s : State) : (takeWord s).src = s.src := rfl
@[simp] theorem takeWord_faulted (s : State) : (takeWord s).faulted = s.faulted := rfl
@[simp] theorem takeWord_now (s : State) : (takeWord s).env.now = s.env.now := rfl
@[simp] theorem takeWord_txns (s : State) : (takeWord s).env.txns = s.env.txns := rfl
@[simp] theorem takeWord_regReads (s : State) : (takeWord s).env.regReads = s.env.regReads := rfl
@[simp] theorem takeWord_resets (s : State) : (takeWord s).env.resets = s.env.resets := rfl
@[simp] theorem takeWord_answers (s : State) : (takeWord s).env.answers = s.env.answers := rfl
@[simp] theorem takeWord_busyLevels (s : State) : (takeWord s).env.busyLevels = s.env.busyLevels := rfl
@[simp] theorem takeWord_packTimes (s : State) : (takeWord s).env.packTimes = s.env.packTimes := rfl
@[simp] theorem takeWord_draws (s : State) : (takeWord s).env.draws = s.env.draws := rfl
@[simp] theorem takeWord_outstanding (s : State) : (takeWord s).env.outstanding = s.env.outstanding := rfl
@[simp] theorem takeWord_packLeft (s : State) : (takeWord s).env.packLeft = s.env.packLeft := rfl
@[simp] theorem takeWord_trace (s : State) : (takeWord s).env.trace = s.env.trace := rfl
@[simp] theorem takeWord_memReplies (s : State) : (takeWord s).env.memReplies = s.env.memReplies := rfl
@[simp] theorem takeWord_regReplies (s : State) : (takeWord s).env.regReplies = s.env.regReplies := rfl
@[simp] theorem takeWord_reached (s : State) : (takeWord s).env.reached = s.env.reached := rfl
@[simp] theorem takeWord_ops (s : State) :
    (takeWord s).env.ops = s.env.ops.tail := rfl

/-! ### presentNext -/

@[simp] theorem presentNext_build (w : Word) (s : State) : (presentNext w s).build = s.build := rfl
@[simp] theorem presentNext_cfg (w : Word) (s : State) : (presentNext w s).cfg = s.cfg := rfl
@[simp] theorem presentNext_curOp (w : Word) (s : State) : (presentNext w s).curOp = s.curOp := rfl
@[simp] theorem presentNext_result (w : Word) (s : State) : (presentNext w s).result = s.result := rfl
@[simp] theorem presentNext_lastOp (w : Word) (s : State) : (presentNext w s).lastOp = s.lastOp := rfl
@[simp] theorem presentNext_framer (w : Word) (s : State) : (presentNext w s).framer = s.framer := rfl
@[simp] theorem presentNext_fcnt (w : Word) (s : State) : (presentNext w s).fcnt = s.fcnt := rfl
@[simp] theorem presentNext_sync (w : Word) (s : State) : (presentNext w s).sync = s.sync := rfl
@[simp] theorem presentNext_elapsed (w : Word) (s : State) : (presentNext w s).elapsed = s.elapsed := rfl
@[simp] theorem presentNext_samples (w : Word) (s : State) : (presentNext w s).samples = s.samples := rfl
@[simp] theorem presentNext_notify (w : Word) (s : State) : (presentNext w s).notify = s.notify := rfl
@[simp] theorem presentNext_packer (w : Word) (s : State) : (presentNext w s).packer = s.packer := rfl
@[simp] theorem presentNext_dcSh (w : Word) (s : State) : (presentNext w s).dcSh = s.dcSh := rfl
@[simp] theorem presentNext_csSh (w : Word) (s : State) : (presentNext w s).csSh = s.csSh := rfl
@[simp] theorem presentNext_rstSh (w : Word) (s : State) : (presentNext w s).rstSh = s.rstSh := rfl
@[simp] theorem presentNext_pbuf (w : Word) (s : State) : (presentNext w s).pbuf = s.pbuf := rfl
@[simp] theorem presentNext_src (w : Word) (s : State) : (presentNext w s).src = s.src := rfl
@[simp] theorem presentNext_faulted (w : Word) (s : State) : (presentNext w s).faulted = s.faulted := rfl
@[simp] theorem presentNext_now (w : Word) (s : State) : (presentNext w s).env.now = s.env.now := rfl
@[simp] theorem presentNext_txns (w : Word) (s : State) : (presentNext w s).env.txns = s.env.txns := rfl
@[simp] theorem presentNext_regReads (w : Word) (s : State) : (presentNext w s).env.regReads = s.env.regReads := rfl
@[simp] theorem presentNext_answers (w : Word) (s : State) : (presentNext w s).env.answers = s.env.answers := rfl
@[simp] theorem presentNext_busyLevels (w : Word) (s : State) : (presentNext w s).env.busyLevels = s.env.busyLevels := rfl
@[simp] theorem presentNext_packTimes (w : Word) (s : State) : (presentNext w s).env.packTimes = s.env.packTimes := rfl
@[simp] theorem presentNext_draws (w : Word) (s : State) : (presentNext w s).env.draws = s.env.draws := rfl
@[simp] theorem presentNext_outstanding (w : Word) (s : State) : (presentNext w s).env.outstanding = s.env.outstanding := rfl
@[simp] theorem presentNext_packLeft (w : Word) (s : State) : (presentNext w s).env.packLeft = s.env.packLeft := rfl
@[simp] theorem presentNext_trace (w : Word) (s : State) : (presentNext w s).env.trace = s.env.trace := rfl
@[simp] theorem presentNext_memReplies (w : Word) (s : State) : (presentNext w s).env.memReplies = s.env.memReplies := rfl
@[simp] theorem presentNext_regReplies (w : Word) (s : State) : (presentNext w s).env.regReplies = s.env.regReplies := rfl
@[simp] theorem presentNext_reached (w : Word) (s : State) : (presentNext w s).env.reached = s.env.reached := rfl
@[simp] theorem presentNext_opState (w : Word) (s : State) :
    (presentNext w s).opState = .idle := rfl
@[simp] theorem presentNext_ops (w : Word) (s : State) :
    (presentNext w s).env.ops = (s.env.now, w) :: s.env.ops := rfl

/-! ### hostPresent -/

@[simp] theorem hostPresent_build (w : Word) (s : State) : (hostPresent w s).build = s.build := rfl
@[simp] theorem hostPresent_cfg (w : Word) (s : State) : (hostPresent w s).cfg = s.cfg := rfl
@[simp] theorem hostPresent_opState (w : Word) (s : State) : (hostPresent w s).opState = s.opState := rfl
@[simp] theorem hostPresent_curOp (w : Word) (s : State) : (hostPresent w s).curOp = s.curOp := rfl
@[simp] theorem hostPresent_result (w : Word) (s : State) : (hostPresent w s).result = s.result := rfl
@[simp] theorem hostPresent_lastOp (w : Word) (s : State) : (hostPresent w s).lastOp = s.lastOp := rfl
@[simp] theorem hostPresent_framer (w : Word) (s : State) : (hostPresent w s).framer = s.framer := rfl
@[simp] theorem hostPresent_fcnt (w : Word) (s : State) : (hostPresent w s).fcnt = s.fcnt := rfl
@[simp] theorem hostPresent_sync (w : Word) (s : State) : (hostPresent w s).sync = s.sync := rfl
@[simp] theorem hostPresent_elapsed (w : Word) (s : State) : (hostPresent w s).elapsed = s.elapsed := rfl
@[simp] theorem hostPresent_samples (w : Word) (s : State) : (hostPresent w s).samples = s.samples := rfl
@[simp] theorem hostPresent_notify (w : Word) (s : State) : (hostPresent w s).notify = s.notify := rfl
@[simp] theorem hostPresent_packer (w : Word) (s : State) : (hostPresent w s).packer = s.packer := rfl
@[simp] theorem hostPresent_dcSh (w : Word) (s : State) : (hostPresent w s).dcSh = s.dcSh := rfl
@[simp] theorem hostPresent_csSh (w : Word) (s : State) : (hostPresent w s).csSh = s.csSh := rfl
@[simp] theorem hostPresent_rstSh (w : Word) (s : State) : (hostPresent w s).rstSh = s.rstSh := rfl
@[simp] theorem hostPresent_pbuf (w : Word) (s : State) : (hostPresent w s).pbuf = s.pbuf := rfl
@[simp] theorem hostPresent_src (w : Word) (s : State) : (hostPresent w s).src = s.src := rfl
@[simp] theorem hostPresent_faulted (w : Word) (s : State) : (hostPresent w s).faulted = s.faulted := rfl
@[simp] theorem hostPresent_now (w : Word) (s : State) : (hostPresent w s).env.now = s.env.now := rfl
@[simp] theorem hostPresent_txns (w : Word) (s : State) : (hostPresent w s).env.txns = s.env.txns := rfl
@[simp] theorem hostPresent_regReads (w : Word) (s : State) : (hostPresent w s).env.regReads = s.env.regReads := rfl
@[simp] theorem hostPresent_resets (w : Word) (s : State) : (hostPresent w s).env.resets = s.env.resets := rfl
@[simp] theorem hostPresent_answers (w : Word) (s : State) : (hostPresent w s).env.answers = s.env.answers := rfl
@[simp] theorem hostPresent_busyLevels (w : Word) (s : State) : (hostPresent w s).env.busyLevels = s.env.busyLevels := rfl
@[simp] theorem hostPresent_packTimes (w : Word) (s : State) : (hostPresent w s).env.packTimes = s.env.packTimes := rfl
@[simp] theorem hostPresent_draws (w : Word) (s : State) : (hostPresent w s).env.draws = s.env.draws := rfl
@[simp] theorem hostPresent_outstanding (w : Word) (s : State) : (hostPresent w s).env.outstanding = s.env.outstanding := rfl
@[simp] theorem hostPresent_packLeft (w : Word) (s : State) : (hostPresent w s).env.packLeft = s.env.packLeft := rfl
@[simp] theorem hostPresent_trace (w : Word) (s : State) : (hostPresent w s).env.trace = s.env.trace := rfl
@[simp] theorem hostPresent_memReplies (w : Word) (s : State) : (hostPresent w s).env.memReplies = s.env.memReplies := rfl
@[simp] theorem hostPresent_regReplies (w : Word) (s : State) : (hostPresent w s).env.regReplies = s.env.regReplies := rfl
@[simp] theorem hostPresent_reached (w : Word) (s : State) : (hostPresent w s).env.reached = s.env.reached := rfl

/-! ### hostTxn -/

@[simp] theorem hostTxn_build (t : MemTxn) (s : State) : (hostTxn t s).build = s.build := rfl
@[simp] theorem hostTxn_cfg (t : MemTxn) (s : State) : (hostTxn t s).cfg = s.cfg := rfl
@[simp] theorem hostTxn_opState (t : MemTxn) (s : State) : (hostTxn t s).opState = s.opState := rfl
@[simp] theorem hostTxn_curOp (t : MemTxn) (s : State) : (hostTxn t s).curOp = s.curOp := rfl
@[simp] theorem hostTxn_result (t : MemTxn) (s : State) : (hostTxn t s).result = s.result := rfl
@[simp] theorem hostTxn_lastOp (t : MemTxn) (s : State) : (hostTxn t s).lastOp = s.lastOp := rfl
@[simp] theorem hostTxn_framer (t : MemTxn) (s : State) : (hostTxn t s).framer = s.framer := rfl
@[simp] theorem hostTxn_fcnt (t : MemTxn) (s : State) : (hostTxn t s).fcnt = s.fcnt := rfl
@[simp] theorem hostTxn_sync (t : MemTxn) (s : State) : (hostTxn t s).sync = s.sync := rfl
@[simp] theorem hostTxn_elapsed (t : MemTxn) (s : State) : (hostTxn t s).elapsed = s.elapsed := rfl
@[simp] theorem hostTxn_samples (t : MemTxn) (s : State) : (hostTxn t s).samples = s.samples := rfl
@[simp] theorem hostTxn_notify (t : MemTxn) (s : State) : (hostTxn t s).notify = s.notify := rfl
@[simp] theorem hostTxn_packer (t : MemTxn) (s : State) : (hostTxn t s).packer = s.packer := rfl
@[simp] theorem hostTxn_dcSh (t : MemTxn) (s : State) : (hostTxn t s).dcSh = s.dcSh := rfl
@[simp] theorem hostTxn_csSh (t : MemTxn) (s : State) : (hostTxn t s).csSh = s.csSh := rfl
@[simp] theorem hostTxn_rstSh (t : MemTxn) (s : State) : (hostTxn t s).rstSh = s.rstSh := rfl
@[simp] theorem hostTxn_pbuf (t : MemTxn) (s : State) : (hostTxn t s).pbuf = s.pbuf := rfl
@[simp] theorem hostTxn_src (t : MemTxn) (s : State) : (hostTxn t s).src = s.src := rfl
@[simp] theorem hostTxn_faulted (t : MemTxn) (s : State) : (hostTxn t s).faulted = s.faulted := rfl
@[simp] theorem hostTxn_now (t : MemTxn) (s : State) : (hostTxn t s).env.now = s.env.now := rfl
@[simp] theorem hostTxn_ops (t : MemTxn) (s : State) : (hostTxn t s).env.ops = s.env.ops := rfl
@[simp] theorem hostTxn_regReads (t : MemTxn) (s : State) : (hostTxn t s).env.regReads = s.env.regReads := rfl
@[simp] theorem hostTxn_resets (t : MemTxn) (s : State) : (hostTxn t s).env.resets = s.env.resets := rfl
@[simp] theorem hostTxn_answers (t : MemTxn) (s : State) : (hostTxn t s).env.answers = s.env.answers := rfl
@[simp] theorem hostTxn_busyLevels (t : MemTxn) (s : State) : (hostTxn t s).env.busyLevels = s.env.busyLevels := rfl
@[simp] theorem hostTxn_packTimes (t : MemTxn) (s : State) : (hostTxn t s).env.packTimes = s.env.packTimes := rfl
@[simp] theorem hostTxn_draws (t : MemTxn) (s : State) : (hostTxn t s).env.draws = s.env.draws := rfl
@[simp] theorem hostTxn_outstanding (t : MemTxn) (s : State) : (hostTxn t s).env.outstanding = s.env.outstanding := rfl
@[simp] theorem hostTxn_packLeft (t : MemTxn) (s : State) : (hostTxn t s).env.packLeft = s.env.packLeft := rfl
@[simp] theorem hostTxn_trace (t : MemTxn) (s : State) : (hostTxn t s).env.trace = s.env.trace := rfl
@[simp] theorem hostTxn_memReplies (t : MemTxn) (s : State) : (hostTxn t s).env.memReplies = s.env.memReplies := rfl
@[simp] theorem hostTxn_regReplies (t : MemTxn) (s : State) : (hostTxn t s).env.regReplies = s.env.regReplies := rfl
@[simp] theorem hostTxn_reached (t : MemTxn) (s : State) : (hostTxn t s).env.reached = s.env.reached := rfl

end Sys2Proof.Machine
end

