-- ==== Sys2Proof/Laws/Engine.lean ====
section
/-! SUPPORT. What the engines and the run of an operation can do, said once: the frame of one tick, the induction over the
ticks of an operation, and the acceptance of an operation. -/

namespace Sys2Proof.Machine

/-! ### The events of WAIT -/

@[simp] theorem enterWait_trace (s : State) :
    (enterWait s).env.trace = s.env.trace ++ notifyEvent s.cfg s.env.now true := by
  cases h : s.cfg.notifyEn <;> simp [enterWait, h, notifyEvent]

@[simp] theorem exitWait_trace (code : Result) (s : State) :
    (exitWait code s).env.trace =
      s.env.trace ++ notifyEvent s.cfg s.env.now false ++ [⟨s.env.now, .done s.curOp code⟩] := by
  cases h : s.cfg.notifyEn <;> simp [exitWait, h, notifyEvent]

/-! ### One tick -/

/-- Without a reset a tick is the register port, the engine, and the end of the tick. -/
theorem tick_eq {s : State} (h : NoReset s) : tick s = endTick (engineTick (readPort s)) := by
  simp [tick, resetDue, h]

/-- Everything an engine can do in one tick: the framer's, the synchronizer's or the packer's tick, or the finish of an
illegal word. -/
theorem engineTick_cases (s : State) :
    engineTick s = framerTick s ∨ engineTick s = waitTick s ∨ engineTick s = packTick s ∨
      engineTick s = finish .illegalOp s := by
  unfold engineTick
  split <;> simp

/-- Everything the end of a hold can do. -/
theorem holdDone_cases (s : State) :
    (∃ st r, holdDone s = issue st r s) ∨ holdDone s = finish .ok s ∨ holdDone s = s := by
  unfold holdDone
  split <;> first | exact .inl ⟨_, _, rfl⟩ | exact .inr (.inl rfl) | exact .inr (.inr rfl)

/-- Everything the entry of a hold can do. -/
theorem startHold_cases (st : FramerState) (s : State) :
    startHold st s = holdDone { s with framer := st, fcnt := 0 } ∨
      startHold st s = { s with framer := st, fcnt := 0 } := by
  simp only [startHold]
  split
  · exact .inl rfl
  · exact .inr rfl

/-- Everything a tick of a hold can do. -/
theorem holdTick_cases (s : State) :
    holdTick s = s ∨ holdTick s = { s with fcnt := s.fcnt + 1 } ∨
      holdTick s = holdDone { s with fcnt := s.fcnt + 1 } := by
  unfold holdTick
  split
  case h_4 => exact .inl rfl
  all_goals
    dsimp only
    split
    · exact .inr (.inr rfl)
    · exact .inr (.inl rfl)

/-- Everything the framer can do when a request returned ok. -/
theorem framerNext_cases (s : State) :
    (∃ st r, framerNext s = issue st r s) ∨ framerNext s = finish .ok s ∨ (∃ st, framerNext s = startHold st s) ∨
      framerNext s = s := by
  unfold framerNext
  split <;> first
    | exact .inl ⟨_, _, rfl⟩
    | exact .inr (.inl rfl)
    | exact .inr (.inr (.inl ⟨_, rfl⟩))
    | exact .inr (.inr (.inr rfl))

/-- Everything a tick of WAIT can do. -/
theorem waitTick_cases (s : State) :
    waitTick s = exitWait .ok (sampleBusy s) ∨ waitTick s = exitWait .timeout (sampleBusy s) ∨
      waitTick s = { sampleBusy s with elapsed := s.elapsed + 1 } ∨ waitTick s = { s with elapsed := s.elapsed + 1 } := by
  unfold waitTick
  split_ifs <;> simp

/-- Everything a tick of the packer can do. -/
theorem packTick_cases (s : State) :
    packTick s = finish .ok { s with pbuf := s.pbuf.setLow (fullLen s.cfg) (packerByte s.cfg s.curOp s.src),
                                     env := { s.env with packLeft := 0 } } ∨
      packTick s = { s with env := { s.env with packLeft := s.env.packLeft - 1 } } := by
  unfold packTick
  split_ifs <;> simp

/-! ### Induction over the ticks of an operation -/

/-- What every tick of a busy block keeps, a run of ticks keeps. -/
theorem runTicks_keeps {P : State → Prop} (h : ∀ s, s.opState = .busy → P s → P (tick s)) (n : Nat) (s : State)
    (hs : P s) : P (runTicks n s) := by
  induction n generalizing s with
  | zero => exact hs
  | succ n ih =>
    simp only [runTicks]
    split
    · exact hs
    · exact ih _ (h s ‹_› hs)

/-- What every tick of a busy block keeps, a run of phases keeps. -/
theorem runPhases_keeps {P : State → Prop} (h : ∀ s, s.opState = .busy → P s → P (tick s)) (n : Nat) (s : State)
    (hs : P s) : P (runPhases n s) := by
  induction n generalizing s with
  | zero => exact hs
  | succ n ih => exact ih _ (runTicks_keeps h _ s hs)

/-- What every tick of a busy block keeps, the run of an operation keeps. -/
theorem complete_keeps {P : State → Prop} (h : ∀ s, s.opState = .busy → P s → P (tick s)) (s : State) (hs : P s) :
    P (complete s) := runPhases_keeps h 6 s hs

/-- An idle block does no ticks. -/
@[simp] theorem runTicks_idle {s : State} (h : s.opState = .idle) (n : Nat) : runTicks n s = s := by
  cases n with
  | zero => rfl
  | succ n => simp [runTicks, h]

/-- A busy block does a tick. -/
theorem runTicks_busy {s : State} (h : s.opState = .busy) (n : Nat) : runTicks (n + 1) s = runTicks n (tick s) := by
  simp [runTicks, h]

/-- A run of ticks in two parts. -/
theorem runTicks_add (m n : Nat) (s : State) : runTicks (m + n) s = runTicks n (runTicks m s) := by
  induction m generalizing s with
  | zero => simp [runTicks]
  | succ m ih =>
    rw [Nat.succ_add]
    cases h : s.opState with
    | idle => simp [h]
    | busy => rw [runTicks_busy h, runTicks_busy h, ih]

/-- An idle block has nothing to complete. -/
@[simp] theorem complete_idle {s : State} (h : s.opState = .idle) : complete s = s := by
  have hp : ∀ n, runPhases n s = s := by
    intro n
    induction n with
    | zero => rfl
    | succ n ih => simp [runPhases, h, ih]
  exact hp 6

/-- The run of an operation is a run of some number of ticks. -/
theorem complete_eq_runTicks (s : State) : ∃ n, complete s = runTicks n s := by
  have h : ∀ k s, ∃ n, runPhases k s = runTicks n s := by
    intro k
    induction k with
    | zero => exact fun s => ⟨0, rfl⟩
    | succ k ih =>
      intro s
      obtain ⟨n, hn⟩ := ih (runTicks (phaseTicks s) s)
      exact ⟨phaseTicks s + n, by simp [runPhases, hn, runTicks_add]⟩
  exact h 6 s

/-- An operation that finishes within n ticks, and that its run brings to a finish, ends where the n ticks end. -/
theorem complete_eq_of_idle {s : State} {n : Nat} (hn : (runTicks n s).opState = .idle)
    (hc : (complete s).opState = .idle) : complete s = runTicks n s := by
  obtain ⟨m, hm⟩ := complete_eq_runTicks s
  rw [hm] at hc ⊢
  rcases Nat.le_total m n with h | h
  · obtain ⟨d, rfl⟩ := Nat.exists_eq_add_of_le h
    rw [runTicks_add, runTicks_idle hc]
  · obtain ⟨d, rfl⟩ := Nat.exists_eq_add_of_le h
    rw [runTicks_add, runTicks_idle hn]

/-! ### The acceptance of an operation -/

/-- A ready block whose operation has a body that goes on runs it to the finish. -/
theorem operate_ready_ok {w : Word} {body : State → Except Fault State} {s s1 : State} (h : Ready s)
    (hb : body (accept w (readPort s)) = .ok s1) : operate w body s = .next (complete (endTick s1)) := by
  simp [operate, h.1, h.2, hb]

/-- A ready block whose operation meets an unwritten cell stops with a fault. -/
theorem operate_ready_error {w : Word} {body : State → Except Fault State} {s : State} {f : Fault} (h : Ready s)
    (hb : body (accept w (readPort s)) = .error f) : operate w body s = .fault f := by
  simp [operate, h.1, h.2, hb]

/-- When an operation answers a next state: the block was ready, the body went on, and the operation ran to its finish. -/
theorem operate_eq_next {w : Word} {body : State → Except Fault State} {s t : State}
    (h : operate w body s = .next t) :
    Ready s ∧ ∃ s1, body (accept w (readPort s)) = .ok s1 ∧ t = complete (endTick s1) := by
  by_cases hr : Ready s
  · cases hb : body (accept w (readPort s)) with
    | error f =>
      rw [operate_ready_error hr hb] at h
      exact Host.Outcome.noConfusion rfl rfl rfl (heq_of_eq h)
    | ok s1 =>
      rw [operate_ready_ok hr hb] at h
      exact ⟨hr, s1, rfl, (Host.Outcome.next.inj h).symm⟩
  · exfalso
    unfold operate at h
    cases hl : legalCfg s.build s.cfg <;> cases ho : s.opState <;>
      simp only [hl, ho, if_true, if_false, Bool.false_eq_true, reduceCtorEq] at h
    exact hr ⟨hl, ho⟩

/-- When an operation stops with a fault: the block was ready and its body met an unwritten cell. -/
theorem operate_eq_fault {w : Word} {body : State → Except Fault State} {s : State} {f : Fault}
    (h : operate w body s = .fault f) :
    Ready s ∧ body (accept w (readPort s)) = .error f := by
  by_cases hr : Ready s
  · cases hb : body (accept w (readPort s)) with
    | error f' =>
      rw [operate_ready_error hr hb] at h
      exact ⟨hr, by rw [Host.Outcome.fault.inj h]⟩
    | ok s1 =>
      rw [operate_ready_ok hr hb] at h
      exact Host.Outcome.noConfusion rfl rfl rfl (heq_of_eq h)
  · exfalso
    unfold operate at h
    cases hl : legalCfg s.build s.cfg <;> cases ho : s.opState <;>
      simp only [hl, ho, if_true, if_false, Bool.false_eq_true, reduceCtorEq] at h
    exact hr ⟨hl, ho⟩

/-- A ready block whose operation is turned away with a result in its acceptance tick: all that changes. -/
theorem operate_ready_finish {w : Word} {body : State → Except Fault State} {s : State} {code : Result} (h : Ready s)
    (hb : body (accept w (readPort s)) = .ok (finish code (accept w (readPort s)))) :
    operate w body s = .next
      { s with
        curOp := w, lastOp := fieldOp w, result := code, framer := .fIdle, sync := .sIdle, packer := .pIdle,
        env := { (readPort s).env with
          now := s.env.now + 1, trace := s.env.trace ++ [⟨s.env.now, .done w code⟩] } } := by
  rw [operate_ready_ok h hb, complete_idle (by simp)]
  obtain ⟨-, ho⟩ := h
  simp only [endTick, finish, accept, log, logAt, readPort]
  split
  · simp [ho]
  · split <;> simp [ho]

end Sys2Proof.Machine
end

