-- ==== Sys2Proof/Laws/Memory.lean ====
section
/-! SUPPORT. The laws of the two memories: every operation keeps the canonical form, a read after a write gives what was
written, and a write leaves every other cell alone (20_memory.md R69). -/

namespace Sys2Proof.Machine

variable {α : Type}

/-- In a memory in canonical form, every key after the head's is larger. -/
theorem Memory.wf_cons {k : Nat} {v : α} {m : Memory α} :
    Memory.wf ((k, v) :: m) ↔ (∀ c ∈ m, k < c.1) ∧ m.wf := List.pairwise_cons

/-- The keys of a memory after a write: the written one and the ones before. -/
theorem Memory.mem_write {m : Memory α} {a : Nat} {v : α} {c : Nat × α} (h : c ∈ m.write a v) :
    c = (a, v) ∨ c ∈ m := by
  induction m with
  | nil => simpa [Memory.write] using h
  | cons hd tl ih =>
    obtain ⟨k, u⟩ := hd
    simp only [Memory.write] at h
    split at h
    · simpa using h
    · split at h
      · rcases List.mem_cons.1 h with h | h
        · exact .inl h
        · exact .inr (List.mem_cons_of_mem _ h)
      · rcases List.mem_cons.1 h with h | h
        · exact .inr (by simp [h])
        · exact (ih h).imp_right (List.mem_cons_of_mem _)

/-- A write keeps the canonical form. -/
theorem Memory.wf_write {m : Memory α} (h : m.wf) (a : Nat) (v : α) : (m.write a v).wf := by
  induction m with
  | nil => simp [Memory.write]
  | cons hd tl ih =>
    obtain ⟨k, u⟩ := hd
    obtain ⟨hk, htl⟩ := Memory.wf_cons.1 h
    simp only [Memory.write]
    split
    · refine Memory.wf_cons.2 ⟨fun c hc => ?_, h⟩
      rcases List.mem_cons.1 hc with rfl | hc
      · assumption
      · exact lt_trans ‹_› (hk c hc)
    · split
      · subst_vars
        exact Memory.wf_cons.2 ⟨hk, htl⟩
      · refine Memory.wf_cons.2 ⟨fun c hc => ?_, ih htl⟩
        rcases Memory.mem_write hc with rfl | hc
        · simp only; omega
        · exact hk c hc

/-- A read of the written cell gives the written value. -/
@[simp] theorem Memory.read_write_same (m : Memory α) (a : Nat) (v : α) : (m.write a v).read a = some v := by
  induction m with
  | nil => simp [Memory.write, Memory.read]
  | cons hd tl ih =>
    obtain ⟨k, u⟩ := hd
    simp only [Memory.write]
    split
    · simp [Memory.read]
    · split
      · simp [Memory.read]
      · rename_i h1 h2
        simp [Memory.read, ih, Ne.symm h2]

/-- A write leaves every other cell alone (20_memory.md R69). -/
theorem Memory.read_write_other (m : Memory α) {a b : Nat} (v : α) (h : b ≠ a) : (m.write a v).read b = m.read b := by
  induction m with
  | nil => simp [Memory.write, Memory.read, Ne.symm h]
  | cons hd tl ih =>
    obtain ⟨k, u⟩ := hd
    simp only [Memory.write]
    split
    · simp [Memory.read, Ne.symm h]
    · split
      · subst_vars
        simp [Memory.read, Ne.symm h]
      · simp [Memory.read, ih]

/-- A cell is listed exactly when it is read as a value. -/
theorem Memory.mem_of_read {m : Memory α} {a : Nat} {v : α} (h : m.read a = some v) : (a, v) ∈ m := by
  induction m with
  | nil => simp [Memory.read] at h
  | cons hd tl ih =>
    obtain ⟨k, u⟩ := hd
    simp only [Memory.read] at h
    split at h
    · simp_all
    · exact List.mem_cons_of_mem _ (ih h)

/-- In canonical form a listed cell reads as its value. -/
theorem Memory.read_of_mem {m : Memory α} (hw : m.wf) {a : Nat} {v : α} (h : (a, v) ∈ m) : m.read a = some v := by
  induction m with
  | nil => simp at h
  | cons hd tl ih =>
    obtain ⟨k, u⟩ := hd
    obtain ⟨hk, htl⟩ := Memory.wf_cons.1 hw
    rcases List.mem_cons.1 h with h | h
    · simp_all [Memory.read]
    · have := hk _ h
      simp only at this
      simp [Memory.read, Nat.ne_of_lt this, ih htl h]

/-- Reading from two memories one after the other: the first that lists the cell decides. -/
theorem Memory.read_append (m n : Memory α) (a : Nat) : Memory.read (m ++ n) a = (m.read a).or (n.read a) := by
  induction m with
  | nil => simp [Memory.read]
  | cons hd tl ih =>
    obtain ⟨k, u⟩ := hd
    simp only [List.cons_append, Memory.read]
    split <;> simp [ih]

/-- Reading from a part of a memory whose keys satisfy a test. -/
theorem Memory.read_filter (m : Memory α) (p : Nat → Bool) (a : Nat) :
    Memory.read (m.filter (fun c => p c.1)) a = if p a then m.read a else none := by
  induction m with
  | nil => simp [Memory.read]
  | cons hd tl ih =>
    obtain ⟨k, u⟩ := hd
    simp only [List.filter_cons]
    by_cases hk : p k
    · simp only [hk, if_true, Memory.read, ih]
      by_cases h : k = a
      · subst h; simp [hk]
      · simp [h]
    · simp only [hk, Bool.false_eq_true, if_false, Memory.read, ih]
      by_cases h : k = a
      · subst h; simp [hk]
      · simp [h]

/-- Reading from a table of the cells `0 .. n-1`. -/
theorem Memory.read_table (n : Nat) (f : Nat → α) (a : Nat) :
    Memory.read ((List.range n).map (fun i => (i, f i))) a = if a < n then some (f a) else none := by
  induction n with
  | zero => simp [Memory.read]
  | succ n ih =>
    rw [List.range_succ, List.map_append, Memory.read_append, ih]
    by_cases h : a < n
    · simp [h, Nat.lt_succ_of_lt h]
    · by_cases h2 : a = n
      · subst h2; simp [Memory.read]
      · have h3 : ¬ a < n + 1 := by omega
        simp [h, h3, Memory.read, Ne.symm h2]

/-- What each cell reads as after a write of all cells below n. -/
theorem Memory.read_setLow (m : Memory α) (n : Nat) (f : Nat → α) (a : Nat) :
    (m.setLow n f).read a = if a < n then some (f a) else m.read a := by
  unfold Memory.setLow
  rw [Memory.read_append, Memory.read_table, Memory.read_filter m (fun k => decide (n ≤ k))]
  by_cases h : a < n
  · simp [h]
  · simp [h, Nat.le_of_not_lt h]

/-- The cells of a memory after a write of all cells below n. -/
theorem Memory.mem_setLow {m : Memory α} {n : Nat} {f : Nat → α} {c : Nat × α} (h : c ∈ m.setLow n f) :
    c.1 < n ∨ c ∈ m := by
  unfold Memory.setLow at h
  rcases List.mem_append.1 h with h | h
  · obtain ⟨i, hi, rfl⟩ := List.mem_map.1 h
    exact .inl (List.mem_range.1 hi)
  · exact .inr (List.mem_filter.1 h).1

/-- A write of all cells below n keeps the canonical form. -/
theorem Memory.wf_setLow {m : Memory α} (h : m.wf) (n : Nat) (f : Nat → α) : (m.setLow n f).wf := by
  unfold Memory.setLow Memory.wf
  rw [List.pairwise_append]
  refine ⟨?_, h.filter _, ?_⟩
  · rw [List.pairwise_map]
    exact List.pairwise_lt_range.imp (fun h => h)
  · intro a ha b hb
    obtain ⟨i, hi, rfl⟩ := List.mem_map.1 ha
    have h1 := List.mem_range.1 hi
    have h2 := of_decide_eq_true (List.mem_filter.1 hb).2
    simp only at h2 ⊢
    omega

/-- There is no unwritten cell in a range exactly when the range can be read, and then the bytes are the cells'. -/
theorem Memory.readRange_eq_some {m : Memory α} {n a : Nat} {vs : List α} :
    m.readRange a n = some vs ↔ vs.length = n ∧ ∀ i, (h : i < vs.length) → m.read (a + i) = some vs[i] := by
  induction n generalizing a vs with
  | zero =>
    simp only [Memory.readRange, Option.some.injEq]
    constructor
    · rintro rfl; simp
    · rintro ⟨h, -⟩; exact (List.length_eq_zero_iff.1 h).symm
  | succ n ih =>
    simp only [Memory.readRange]
    constructor
    · intro h
      split at h
      · rename_i v ws hv hws
        simp only [Option.some.injEq] at h
        subst h
        obtain ⟨h1, h2⟩ := ih.1 hws
        refine ⟨by simp [h1], fun i hi => ?_⟩
        cases i with
        | zero => simpa using hv
        | succ i =>
          have := h2 i (by simpa using hi)
          rw [show a + (i + 1) = a + 1 + i by omega]
          simpa using this
      · simp at h
    · rintro ⟨h1, h2⟩
      cases vs with
      | nil => simp at h1
      | cons v ws =>
        have hv : m.read a = some v := h2 0 (by simp)
        have hws : m.readRange (a + 1) n = some ws := by
          refine ih.2 ⟨by simpa using h1, fun i hi => ?_⟩
          have := h2 (i + 1) (by simpa using hi)
          rw [show a + 1 + i = a + (i + 1) by omega]
          simpa using this
        simp [hv, hws]

/-- The first unwritten cell of a range: it lies in the range, it is unwritten, and every one before it is written. -/
theorem Memory.firstUnwritten_eq_some {m : Memory α} {n a b : Nat} :
    m.firstUnwritten a n = some b ↔ a ≤ b ∧ b < a + n ∧ m.read b = none ∧ ∀ c, a ≤ c → c < b → (m.read c).isSome := by
  induction n generalizing a with
  | zero =>
    simp only [Memory.firstUnwritten, reduceCtorEq, false_iff]
    omega
  | succ n ih =>
    simp only [Memory.firstUnwritten]
    cases hr : m.read a with
    | none =>
      simp only [Option.some.injEq]
      constructor
      · rintro rfl
        exact ⟨le_rfl, by omega, hr, fun c h1 h2 => by omega⟩
      · rintro ⟨h1, h2, h3, h4⟩
        by_contra hne
        have := h4 a le_rfl (by omega)
        simp [hr] at this
    | some v =>
      simp only [ih]
      constructor
      · rintro ⟨h1, h2, h3, h4⟩
        refine ⟨by omega, by omega, h3, fun c hc1 hc2 => ?_⟩
        by_cases hca : c = a
        · subst hca; simp [hr]
        · exact h4 c (by omega) hc2
      · rintro ⟨h1, h2, h3, h4⟩
        have hne : b ≠ a := by
          rintro rfl
          simp [hr] at h3
        exact ⟨by omega, by omega, h3, fun c hc1 hc2 => h4 c (by omega) hc2⟩

/-- No cell of a range is unwritten exactly when every one is written. -/
theorem Memory.firstUnwritten_eq_none {m : Memory α} {n a : Nat} :
    m.firstUnwritten a n = none ↔ ∀ c, a ≤ c → c < a + n → (m.read c).isSome := by
  induction n generalizing a with
  | zero =>
    simp only [Memory.firstUnwritten, true_iff]
    omega
  | succ n ih =>
    simp only [Memory.firstUnwritten]
    cases hr : m.read a with
    | none =>
      simp only [reduceCtorEq, false_iff]
      intro h
      have := h a le_rfl (by omega)
      simp [hr] at this
    | some v =>
      simp only [ih]
      constructor
      · intro h c hc1 hc2
        by_cases hca : c = a
        · subst hca; simp [hr]
        · exact h c (by omega) (by omega)
      · intro h c hc1 hc2
        exact h c (by omega) (by omega)

/-- No cell of a row is unwritten exactly when every one is written. -/
theorem firstUnwrittenInRow_eq_none {m : Memory Bool} {y x n : Nat} :
    firstUnwrittenInRow m y x n = none ↔ ∀ c, x ≤ c → c < x + n → (m.read (srcKey c y)).isSome := by
  induction n generalizing x with
  | zero =>
    simp only [firstUnwrittenInRow, true_iff]
    omega
  | succ n ih =>
    simp only [firstUnwrittenInRow]
    cases hr : m.read (srcKey x y) with
    | none =>
      simp only [reduceCtorEq, false_iff]
      intro h
      have := h x le_rfl (by omega)
      simp [hr] at this
    | some v =>
      simp only [ih]
      constructor
      · intro h c hc1 hc2
        by_cases hca : c = x
        · subst hca; simp [hr]
        · exact h c (by omega) (by omega)
      · intro h c hc1 hc2
        exact h c (by omega) (by omega)

/-- No cell of a source is unwritten exactly when every one is written. -/
theorem firstUnwrittenCell_eq_none {m : Memory Bool} {w y h : Nat} :
    firstUnwrittenCell m w y h = none ↔
      ∀ c r, c < w → y ≤ r → r < y + h → (m.read (srcKey c r)).isSome := by
  induction h generalizing y with
  | zero =>
    simp only [firstUnwrittenCell, true_iff]
    omega
  | succ n ih =>
    simp only [firstUnwrittenCell]
    cases hr : firstUnwrittenInRow m y 0 w with
    | some p =>
      simp only [reduceCtorEq, false_iff]
      intro h
      have : firstUnwrittenInRow m y 0 w = none :=
        firstUnwrittenInRow_eq_none.2 (fun c _ hc => h c y (by omega) le_rfl (by omega))
      simp [hr] at this
    | none =>
      simp only [ih]
      have hrow := firstUnwrittenInRow_eq_none.1 hr
      constructor
      · intro h c r hc hr1 hr2
        by_cases hry : r = y
        · subst hry; exact hrow c (by omega) (by omega)
        · exact h c r hc (by omega) (by omega)
      · intro h c r hc hr1 hr2
        exact h c r hc (by omega) (by omega)

/-- The first unwritten cell of a row lies in the row and is unwritten. -/
theorem firstUnwrittenInRow_spec {m : Memory Bool} {y x n : Nat} {p : Nat × Nat}
    (h : firstUnwrittenInRow m y x n = some p) :
    p.2 = y ∧ x ≤ p.1 ∧ p.1 < x + n ∧ m.read (srcKey p.1 p.2) = none := by
  induction n generalizing x with
  | zero => simp [firstUnwrittenInRow] at h
  | succ n ih =>
    simp only [firstUnwrittenInRow] at h
    split at h
    · simp only [Option.some.injEq] at h
      subst h
      exact ⟨rfl, le_rfl, by simp, ‹_›⟩
    · obtain ⟨h1, h2, h3, h4⟩ := ih h
      exact ⟨h1, by omega, by omega, h4⟩

/-- The first unwritten cell of a source lies in the source and is unwritten. -/
theorem firstUnwrittenCell_spec {m : Memory Bool} {w y n : Nat} {p : Nat × Nat}
    (h : firstUnwrittenCell m w y n = some p) :
    p.1 < w ∧ y ≤ p.2 ∧ p.2 < y + n ∧ m.read (srcKey p.1 p.2) = none := by
  induction n generalizing y with
  | zero => simp [firstUnwrittenCell] at h
  | succ n ih =>
    simp only [firstUnwrittenCell] at h
    split at h
    · simp only [Option.some.injEq] at h
      subst h
      obtain ⟨h1, h2, h3, h4⟩ := firstUnwrittenInRow_spec ‹_›
      exact ⟨by omega, by omega, by omega, h4⟩
    · obtain ⟨h1, h2, h3, h4⟩ := ih h
      exact ⟨h1, by omega, by omega, h4⟩

/-- Two source cells with columns below 8192 have different keys unless they are the same cell. -/
theorem srcKey_inj {x y x' y' : Nat} (hx : x < 8192) (hx' : x' < 8192) (h : srcKey x y = srcKey x' y') :
    x = x' ∧ y = y' := by
  unfold srcKey at h
  omega

/-- The pixels of a packed byte, leftmost first: pixel k is bit 7 - k (42_packer.md R194). -/
theorem byteOfPixels_getLsbD (f : Nat → Bool) {k : Nat} (hk : k < 8) : (byteOfPixels f).getLsbD (7 - k) = f k := by
  have h : ∀ l : List Bool, l.length = 8 → (BitVec.ofBoolListBE l).getLsbD (7 - k) = l.getD k false := by
    intro l hl
    rw [BitVec.getLsbD_eq_getMsbD, BitVec.getMsbD_ofBoolListBE]
    have h1 : l.length - 1 - (7 - k) = k := by omega
    have h2 : 7 - k < l.length := by omega
    simp [h1, h2]
  refine (h [f 0, f 1, f 2, f 3, f 4, f 5, f 6, f 7] rfl).trans ?_
  interval_cases k <;> rfl

end Sys2Proof.Machine
end

