-- ==== Sys2Proof/Laws/Operands.lean ====
section
/-! SUPPORT. The operand checks and the buffer arithmetic as propositions over numbers. -/

namespace Sys2Proof.Machine

theorem stride_eq (c : Cfg) : stride c = (c.pw.toNat + 7) / 8 := by
  simp [stride, Nat.shiftRight_eq_div_pow]

theorem fullLen_eq (c : Cfg) : fullLen c = (c.pw.toNat + 7) / 8 * c.ph.toNat := by rw [fullLen, stride_eq]

/-- Legality as a proposition (10_state.md R23). -/
theorem legalCfg_iff (b : Build) (c : Cfg) :
    legalCfg b c = true ↔
      1 ≤ c.pw.toNat ∧ 1 ≤ c.ph.toNat ∧ 1 ≤ c.pollTicks.toNat ∧ fullLen c ≤ b.pbufSize.toNat ∧
        b.pbufSize.toNat ≤ 16384 ∧ max c.pw.toNat c.ph.toNat ≤ b.srcWMax.toNat ∧
        max c.pw.toNat c.ph.toNat ≤ b.srcHMax.toNat := by
  simp only [legalCfg, Bool.and_eq_true, decide_eq_true_eq, and_assoc]

theorem databInvalid_iff (b : Build) (len addr : BitVec 14) :
    databInvalid b len addr = true ↔ len.toNat = 0 ∨ b.pbufSize.toNat < addr.toNat + len.toNat := by
  simp [databInvalid]

theorem subInvalid_iff (b : Build) (w h : BitVec 13) :
    subInvalid b w h = true ↔ b.srcWMax.toNat < w.toNat ∨ b.srcHMax.toNat < h.toNat := by
  simp [subInvalid]

theorem fullOrientation_straight {c : Cfg} {w h : BitVec 13} (hw : w = c.pw) (hh : h = c.ph) :
    fullOrientation c w h = some .straight := by simp [fullOrientation, hw, hh]

theorem fullOrientation_rotated {c : Cfg} {w h : BitVec 13} (hn : ¬ (w = c.pw ∧ h = c.ph)) (hw : w = c.ph)
    (hh : h = c.pw) : fullOrientation c w h = some .rotated := by
  rw [fullOrientation, if_neg hn, if_pos ⟨hw, hh⟩]

/-- A byte of a packed buffer holds the pixels of its row, the leftmost in bit 7 (42_packer.md R194). -/
theorem packedByte_getLsbD (c : Cfg) (o : Orientation) (w h : Nat) (src : Memory Bool) {dx dy : Nat}
    (hx : dx < 8 * stride c) :
    (packedByte c o w h src (dx / 8 + dy * stride c)).getLsbD (7 - dx % 8) = packedPixel c o w h src dx dy := by
  have hs : dx / 8 < stride c := by omega
  have h1 : (dx / 8 + dy * stride c) % stride c = dx / 8 := by
    rw [Nat.add_mul_mod_self_right, Nat.mod_eq_of_lt hs]
  have h2 : (dx / 8 + dy * stride c) / stride c = dy := by
    rw [Nat.add_mul_div_right _ _ (by omega), Nat.div_eq_of_lt hs, Nat.zero_add]
  rw [packedByte, byteOfPixels_getLsbD _ (by omega), h1, h2, show 8 * (dx / 8) + dx % 8 = dx by omega]

/-- The byte a packer operation writes, operation by operation. -/
theorem packerByte_packFull (c : Cfg) (w h : BitVec 13) (src : Memory Bool) (i : Nat) :
    packerByte c (encode (.packFull w h)) src i =
      packedByte c ((fullOrientation c w h).getD .straight) w.toNat h.toNat src i := by
  simp [packerByte]

theorem packerByte_packSub (c : Cfg) (w h : BitVec 13) (src : Memory Bool) (i : Nat) :
    packerByte c (encode (.packSub w h)) src i = packedByte c .straight w.toNat h.toNat src i := by
  simp [packerByte]

theorem packerByte_fill (c : Cfg) (b : Byte) (src : Memory Bool) (i : Nat) :
    packerByte c (encode (.fill b)) src i = b := by
  simp [packerByte]

end Sys2Proof.Machine
end

