-- ==== Sys2Proof/Laws/Frames.lean ====
section
/-! SUPPORT. What a tick of each engine leaves alone, field by field, tagged for simp. -/

namespace Sys2Proof.Machine


/-! ### startFrame -/

@[simp] theorem startFrame_build (l : Level) (s : State) : (startFrame l s).build = s.build := by simp [startFrame]
@[simp] theorem startFrame_cfg (l : Level) (s : State) : (startFrame l s).cfg = s.cfg := by simp [startFrame]
@[simp] theorem startFrame_opState (l : Level) (s : State) : (startFrame l s).opState = s.opState := by simp [startFrame]
@[simp] theorem startFrame_curOp (l : Level) (s : State) : (startFrame l s).curOp = s.curOp := by simp [startFrame]
@[simp] theorem startFrame_result (l : Level) (s : State) : (startFrame l s).result = s.result := by simp [startFrame]
@[simp] theorem startFrame_lastOp (l : Level) (s : State) : (startFrame l s).lastOp = s.lastOp := by simp [startFrame]
@[simp] theorem startFrame_fcnt (l : Level) (s : State) : (startFrame l s).fcnt = s.fcnt := by simp [startFrame]
@[simp] theorem startFrame_sync (l : Level) (s : State) : (startFrame l s).sync = s.sync := by simp [startFrame]
@[simp] theorem startFrame_elapsed (l : Level) (s : State) : (startFrame l s).elapsed = s.elapsed := by simp [startFrame]
@[simp] theorem startFrame_samples (l : Level) (s : State) : (startFrame l s).samples = s.samples := by simp [startFrame]
@[simp] theorem startFrame_notify (l : Level) (s : State) : (startFrame l s).notify = s.notify := by simp [startFrame]
@[simp] theorem startFrame_packer (l : Level) (s : State) : (startFrame l s).packer = s.packer := by simp [startFrame]
@[simp] theorem startFrame_dcSh (l : Level) (s : State) : (startFrame l s).dcSh = s.dcSh := by simp [startFrame]
@[simp] theorem startFrame_csSh (l : Level) (s : State) : (startFrame l s).csSh = s.csSh := by simp [startFrame]
@[simp] theorem startFrame_rstSh (l : Level) (s : State) : (startFrame l s).rstSh = s.rstSh := by simp [startFrame]
@[simp] theorem startFrame_pbuf (l : Level) (s : State) : (startFrame l s).pbuf = s.pbuf := by simp [startFrame]
@[simp] theorem startFrame_src (l : Level) (s : State) : (startFrame l s).src = s.src := by simp [startFrame]
@[simp] theorem startFrame_faulted (l : Level) (s : State) : (startFrame l s).faulted = s.faulted := by simp [startFrame]
@[simp] theorem startFrame_now (l : Level) (s : State) : (startFrame l s).env.now = s.env.now := by simp [startFrame]
@[simp] theorem startFrame_ops (l : Level) (s : State) : (startFrame l s).env.ops = s.env.ops := by simp [startFrame]
@[simp] theorem startFrame_txns (l : Level) (s : State) : (startFrame l s).env.txns = s.env.txns := by simp [startFrame]
@[simp] theorem startFrame_regReads (l : Level) (s : State) : (startFrame l s).env.regReads = s.env.regReads := by simp [startFrame]
@[simp] theorem startFrame_resets (l : Level) (s : State) : (startFrame l s).env.resets = s.env.resets := by simp [startFrame]
@[simp] theorem startFrame_busyLevels (l : Level) (s : State) : (startFrame l s).env.busyLevels = s.env.busyLevels := by simp [startFrame]
@[simp] theorem startFrame_packTimes (l : Level) (s : State) : (startFrame l s).env.packTimes = s.env.packTimes := by simp [startFrame]
@[simp] theorem startFrame_packLeft (l : Level) (s : State) : (startFrame l s).env.packLeft = s.env.packLeft := by simp [startFrame]
@[simp] theorem startFrame_trace (l : Level) (s : State) : (startFrame l s).env.trace = s.env.trace := by simp [startFrame]
@[simp] theorem startFrame_memReplies (l : Level) (s : State) : (startFrame l s).env.memReplies = s.env.memReplies := by simp [startFrame]
@[simp] theorem startFrame_regReplies (l : Level) (s : State) : (startFrame l s).env.regReplies = s.env.regReplies := by simp [startFrame]
@[simp] theorem startFrame_reached (l : Level) (s : State) : (startFrame l s).env.reached = s.env.reached := by simp [startFrame]

/-! ### startPulse -/

@[simp] theorem startPulse_build (s : State) : (startPulse s).build = s.build := by simp [startPulse]
@[simp] theorem startPulse_cfg (s : State) : (startPulse s).cfg = s.cfg := by simp [startPulse]
@[simp] theorem startPulse_opState (s : State) : (startPulse s).opState = s.opState := by simp [startPulse]
@[simp] theorem startPulse_curOp (s : State) : (startPulse s).curOp = s.curOp := by simp [startPulse]
@[simp] theorem startPulse_result (s : State) : (startPulse s).result = s.result := by simp [startPulse]
@[simp] theorem startPulse_lastOp (s : State) : (startPulse s).lastOp = s.lastOp := by simp [startPulse]
@[simp] theorem startPulse_sync (s : State) : (startPulse s).sync = s.sync := by simp [startPulse]
@[simp] theorem startPulse_elapsed (s : State) : (startPulse s).elapsed = s.elapsed := by simp [startPulse]
@[simp] theorem startPulse_samples (s : State) : (startPulse s).samples = s.samples := by simp [startPulse]
@[simp] theorem startPulse_notify (s : State) : (startPulse s).notify = s.notify := by simp [startPulse]
@[simp] theorem startPulse_packer (s : State) : (startPulse s).packer = s.packer := by simp [startPulse]
@[simp] theorem startPulse_dcSh (s : State) : (startPulse s).dcSh = s.dcSh := by simp [startPulse]
@[simp] theorem startPulse_csSh (s : State) : (startPulse s).csSh = s.csSh := by simp [startPulse]
@[simp] theorem startPulse_rstSh (s : State) : (startPulse s).rstSh = s.rstSh := by simp [startPulse]
@[simp] theorem startPulse_pbuf (s : State) : (startPulse s).pbuf = s.pbuf := by simp [startPulse]
@[simp] theorem startPulse_src (s : State) : (startPulse s).src = s.src := by simp [startPulse]
@[simp] theorem startPulse_faulted (s : State) : (startPulse s).faulted = s.faulted := by simp [startPulse]
@[simp] theorem startPulse_now (s : State) : (startPulse s).env.now = s.env.now := by simp [startPulse]
@[simp] theorem startPulse_ops (s : State) : (startPulse s).env.ops = s.env.ops := by simp [startPulse]
@[simp] theorem startPulse_txns (s : State) : (startPulse s).env.txns = s.env.txns := by simp [startPulse]
@[simp] theorem startPulse_regReads (s : State) : (startPulse s).env.regReads = s.env.regReads := by simp [startPulse]
@[simp] theorem startPulse_resets (s : State) : (startPulse s).env.resets = s.env.resets := by simp [startPulse]
@[simp] theorem startPulse_busyLevels (s : State) : (startPulse s).env.busyLevels = s.env.busyLevels := by simp [startPulse]
@[simp] theorem startPulse_packTimes (s : State) : (startPulse s).env.packTimes = s.env.packTimes := by simp [startPulse]
@[simp] theorem startPulse_packLeft (s : State) : (startPulse s).env.packLeft = s.env.packLeft := by simp [startPulse]
@[simp] theorem startPulse_trace (s : State) : (startPulse s).env.trace = s.env.trace := by simp [startPulse]
@[simp] theorem startPulse_memReplies (s : State) : (startPulse s).env.memReplies = s.env.memReplies := by simp [startPulse]
@[simp] theorem startPulse_regReplies (s : State) : (startPulse s).env.regReplies = s.env.regReplies := by simp [startPulse]
@[simp] theorem startPulse_reached (s : State) : (startPulse s).env.reached = s.env.reached := by simp [startPulse]

/-! ### holdDone -/

@[simp] theorem holdDone_build (s : State) : (holdDone s).build = s.build := by
  obtain ⟨st, r, h⟩ | h | h := holdDone_cases s <;> simp [h]
@[simp] theorem holdDone_cfg (s : State) : (holdDone s).cfg = s.cfg := by
  obtain ⟨st, r, h⟩ | h | h := holdDone_cases s <;> simp [h]
@[simp] theorem holdDone_curOp (s : State) : (holdDone s).curOp = s.curOp := by
  obtain ⟨st, r, h⟩ | h | h := holdDone_cases s <;> simp [h]
@[simp] theorem holdDone_lastOp (s : State) : (holdDone s).lastOp = s.lastOp := by
  obtain ⟨st, r, h⟩ | h | h := holdDone_cases s <;> simp [h]
@[simp] theorem holdDone_fcnt (s : State) : (holdDone s).fcnt = s.fcnt := by
  obtain ⟨st, r, h⟩ | h | h := holdDone_cases s <;> simp [h]
@[simp] theorem holdDone_elapsed (s : State) : (holdDone s).elapsed = s.elapsed := by
  obtain ⟨st, r, h⟩ | h | h := holdDone_cases s <;> simp [h]
@[simp] theorem holdDone_samples (s : State) : (holdDone s).samples = s.samples := by
  obtain ⟨st, r, h⟩ | h | h := holdDone_cases s <;> simp [h]
@[simp] theorem holdDone_notify (s : State) : (holdDone s).notify = s.notify := by
  obtain ⟨st, r, h⟩ | h | h := holdDone_cases s <;> simp [h]
@[simp] theorem holdDone_dcSh (s : State) : (holdDone s).dcSh = s.dcSh := by
  obtain ⟨st, r, h⟩ | h | h := holdDone_cases s <;> simp [h]
@[simp] theorem holdDone_csSh (s : State) : (holdDone s).csSh = s.csSh := by
  obtain ⟨st, r, h⟩ | h | h := holdDone_cases s <;> simp [h]
@[simp] theorem holdDone_rstSh (s : State) : (holdDone s).rstSh = s.rstSh := by
  obtain ⟨st, r, h⟩ | h | h := holdDone_cases s <;> simp [h]
@[simp] theorem holdDone_pbuf (s : State) : (holdDone s).pbuf = s.pbuf := by
  obtain ⟨st, r, h⟩ | h | h := holdDone_cases s <;> simp [h]
@[simp] theorem holdDone_src (s : State) : (holdDone s).src = s.src := by
  obtain ⟨st, r, h⟩ | h | h := holdDone_cases s <;> simp [h]
@[simp] theorem holdDone_faulted (s : State) : (holdDone s).faulted = s.faulted := by
  obtain ⟨st, r, h⟩ | h | h := holdDone_cases s <;> simp [h]
@[simp] theorem holdDone_now (s : State) : (holdDone s).env.now = s.env.now := by
  obtain ⟨st, r, h⟩ | h | h := holdDone_cases s <;> simp [h]
@[simp] theorem holdDone_ops (s : State) : (holdDone s).env.ops = s.env.ops := by
  obtain ⟨st, r, h⟩ | h | h := holdDone_cases s <;> simp [h]
@[simp] theorem holdDone_txns (s : State) : (holdDone s).env.txns = s.env.txns := by
  obtain ⟨st, r, h⟩ | h | h := holdDone_cases s <;> simp [h]
@[simp] theorem holdDone_regReads (s : State) : (holdDone s).env.regReads = s.env.regReads := by
  obtain ⟨st, r, h⟩ | h | h := holdDone_cases s <;> simp [h]
@[simp] theorem holdDone_resets (s : State) : (holdDone s).env.resets = s.env.resets := by
  obtain ⟨st, r, h⟩ | h | h := holdDone_cases s <;> simp [h]
@[simp] theorem holdDone_busyLevels (s : State) : (holdDone s).env.busyLevels = s.env.busyLevels := by
  obtain ⟨st, r, h⟩ | h | h := holdDone_cases s <;> simp [h]
@[simp] theorem holdDone_packTimes (s : State) : (holdDone s).env.packTimes = s.env.packTimes := by
  obtain ⟨st, r, h⟩ | h | h := holdDone_cases s <;> simp [h]
@[simp] theorem holdDone_packLeft (s : State) : (holdDone s).env.packLeft = s.env.packLeft := by
  obtain ⟨st, r, h⟩ | h | h := holdDone_cases s <;> simp [h]
@[simp] theorem holdDone_memReplies (s : State) : (holdDone s).env.memReplies = s.env.memReplies := by
  obtain ⟨st, r, h⟩ | h | h := holdDone_cases s <;> simp [h]
@[simp] theorem holdDone_regReplies (s : State) : (holdDone s).env.regReplies = s.env.regReplies := by
  obtain ⟨st, r, h⟩ | h | h := holdDone_cases s <;> simp [h]
@[simp] theorem holdDone_reached (s : State) : (holdDone s).env.reached = s.env.reached := by
  obtain ⟨st, r, h⟩ | h | h := holdDone_cases s <;> simp [h]

/-! ### startHold -/

@[simp] theorem startHold_build (st : FramerState) (s : State) : (startHold st s).build = s.build := by
  obtain h | h := startHold_cases st s <;> simp [h]
@[simp] theorem startHold_cfg (st : FramerState) (s : State) : (startHold st s).cfg = s.cfg := by
  obtain h | h := startHold_cases st s <;> simp [h]
@[simp] theorem startHold_curOp (st : FramerState) (s : State) : (startHold st s).curOp = s.curOp := by
  obtain h | h := startHold_cases st s <;> simp [h]
@[simp] theorem startHold_lastOp (st : FramerState) (s : State) : (startHold st s).lastOp = s.lastOp := by
  obtain h | h := startHold_cases st s <;> simp [h]
@[simp] theorem startHold_elapsed (st : FramerState) (s : State) : (startHold st s).elapsed = s.elapsed := by
  obtain h | h := startHold_cases st s <;> simp [h]
@[simp] theorem startHold_samples (st : FramerState) (s : State) : (startHold st s).samples = s.samples := by
  obtain h | h := startHold_cases st s <;> simp [h]
@[simp] theorem startHold_notify (st : FramerState) (s : State) : (startHold st s).notify = s.notify := by
  obtain h | h := startHold_cases st s <;> simp [h]
@[simp] theorem startHold_dcSh (st : FramerState) (s : State) : (startHold st s).dcSh = s.dcSh := by
  obtain h | h := startHold_cases st s <;> simp [h]
@[simp] theorem startHold_csSh (st : FramerState) (s : State) : (startHold st s).csSh = s.csSh := by
  obtain h | h := startHold_cases st s <;> simp [h]
@[simp] theorem startHold_rstSh (st : FramerState) (s : State) : (startHold st s).rstSh = s.rstSh := by
  obtain h | h := startHold_cases st s <;> simp [h]
@[simp] theorem startHold_pbuf (st : FramerState) (s : State) : (startHold st s).pbuf = s.pbuf := by
  obtain h | h := startHold_cases st s <;> simp [h]
@[simp] theorem startHold_src (st : FramerState) (s : State) : (startHold st s).src = s.src := by
  obtain h | h := startHold_cases st s <;> simp [h]
@[simp] theorem startHold_faulted (st : FramerState) (s : State) : (startHold st s).faulted = s.faulted := by
  obtain h | h := startHold_cases st s <;> simp [h]
@[simp] theorem startHold_now (st : FramerState) (s : State) : (startHold st s).env.now = s.env.now := by
  obtain h | h := startHold_cases st s <;> simp [h]
@[simp] theorem startHold_ops (st : FramerState) (s : State) : (startHold st s).env.ops = s.env.ops := by
  obtain h | h := startHold_cases st s <;> simp [h]
@[simp] theorem startHold_txns (st : FramerState) (s : State) : (startHold st s).env.txns = s.env.txns := by
  obtain h | h := startHold_cases st s <;> simp [h]
@[simp] theorem startHold_regReads (st : FramerState) (s : State) : (startHold st s).env.regReads = s.env.regReads := by
  obtain h | h := startHold_cases st s <;> simp [h]
@[simp] theorem startHold_resets (st : FramerState) (s : State) : (startHold st s).env.resets = s.env.resets := by
  obtain h | h := startHold_cases st s <;> simp [h]
@[simp] theorem startHold_busyLevels (st : FramerState) (s : State) : (startHold st s).env.busyLevels = s.env.busyLevels := by
  obtain h | h := startHold_cases st s <;> simp [h]
@[simp] theorem startHold_packTimes (st : FramerState) (s : State) : (startHold st s).env.packTimes = s.env.packTimes := by
  obtain h | h := startHold_cases st s <;> simp [h]
@[simp] theorem startHold_packLeft (st : FramerState) (s : State) : (startHold st s).env.packLeft = s.env.packLeft := by
  obtain h | h := startHold_cases st s <;> simp [h]
@[simp] theorem startHold_memReplies (st : FramerState) (s : State) : (startHold st s).env.memReplies = s.env.memReplies := by
  obtain h | h := startHold_cases st s <;> simp [h]
@[simp] theorem startHold_regReplies (st : FramerState) (s : State) : (startHold st s).env.regReplies = s.env.regReplies := by
  obtain h | h := startHold_cases st s <;> simp [h]
@[simp] theorem startHold_reached (st : FramerState) (s : State) : (startHold st s).env.reached = s.env.reached := by
  obtain h | h := startHold_cases st s <;> simp [h]

/-! ### holdTick -/

@[simp] theorem holdTick_build (s : State) : (holdTick s).build = s.build := by
  obtain h | h | h := holdTick_cases s <;> simp [h]
@[simp] theorem holdTick_cfg (s : State) : (holdTick s).cfg = s.cfg := by
  obtain h | h | h := holdTick_cases s <;> simp [h]
@[simp] theorem holdTick_curOp (s : State) : (holdTick s).curOp = s.curOp := by
  obtain h | h | h := holdTick_cases s <;> simp [h]
@[simp] theorem holdTick_lastOp (s : State) : (holdTick s).lastOp = s.lastOp := by
  obtain h | h | h := holdTick_cases s <;> simp [h]
@[simp] theorem holdTick_elapsed (s : State) : (holdTick s).elapsed = s.elapsed := by
  obtain h | h | h := holdTick_cases s <;> simp [h]
@[simp] theorem holdTick_samples (s : State) : (holdTick s).samples = s.samples := by
  obtain h | h | h := holdTick_cases s <;> simp [h]
@[simp] theorem holdTick_notify (s : State) : (holdTick s).notify = s.notify := by
  obtain h | h | h := holdTick_cases s <;> simp [h]
@[simp] theorem holdTick_dcSh (s : State) : (holdTick s).dcSh = s.dcSh := by
  obtain h | h | h := holdTick_cases s <;> simp [h]
@[simp] theorem holdTick_csSh (s : State) : (holdTick s).csSh = s.csSh := by
  obtain h | h | h := holdTick_cases s <;> simp [h]
@[simp] theorem holdTick_rstSh (s : State) : (holdTick s).rstSh = s.rstSh := by
  obtain h | h | h := holdTick_cases s <;> simp [h]
@[simp] theorem holdTick_pbuf (s : State) : (holdTick s).pbuf = s.pbuf := by
  obtain h | h | h := holdTick_cases s <;> simp [h]
@[simp] theorem holdTick_src (s : State) : (holdTick s).src = s.src := by
  obtain h | h | h := holdTick_cases s <;> simp [h]
@[simp] theorem holdTick_faulted (s : State) : (holdTick s).faulted = s.faulted := by
  obtain h | h | h := holdTick_cases s <;> simp [h]
@[simp] theorem holdTick_now (s : State) : (holdTick s).env.now = s.env.now := by
  obtain h | h | h := holdTick_cases s <;> simp [h]
@[simp] theorem holdTick_ops (s : State) : (holdTick s).env.ops = s.env.ops := by
  obtain h | h | h := holdTick_cases s <;> simp [h]
@[simp] theorem holdTick_txns (s : State) : (holdTick s).env.txns = s.env.txns := by
  obtain h | h | h := holdTick_cases s <;> simp [h]
@[simp] theorem holdTick_regReads (s : State) : (holdTick s).env.regReads = s.env.regReads := by
  obtain h | h | h := holdTick_cases s <;> simp [h]
@[simp] theorem holdTick_resets (s : State) : (holdTick s).env.resets = s.env.resets := by
  obtain h | h | h := holdTick_cases s <;> simp [h]
@[simp] theorem holdTick_busyLevels (s : State) : (holdTick s).env.busyLevels = s.env.busyLevels := by
  obtain h | h | h := holdTick_cases s <;> simp [h]
@[simp] theorem holdTick_packTimes (s : State) : (holdTick s).env.packTimes = s.env.packTimes := by
  obtain h | h | h := holdTick_cases s <;> simp [h]
@[simp] theorem holdTick_packLeft (s : State) : (holdTick s).env.packLeft = s.env.packLeft := by
  obtain h | h | h := holdTick_cases s <;> simp [h]
@[simp] theorem holdTick_memReplies (s : State) : (holdTick s).env.memReplies = s.env.memReplies := by
  obtain h | h | h := holdTick_cases s <;> simp [h]
@[simp] theorem holdTick_regReplies (s : State) : (holdTick s).env.regReplies = s.env.regReplies := by
  obtain h | h | h := holdTick_cases s <;> simp [h]
@[simp] theorem holdTick_reached (s : State) : (holdTick s).env.reached = s.env.reached := by
  obtain h | h | h := holdTick_cases s <;> simp [h]

/-! ### framerNext -/

@[simp] theorem framerNext_build (s : State) : (framerNext s).build = s.build := by
  obtain ⟨st, r, h⟩ | h | ⟨st, h⟩ | h := framerNext_cases s <;> simp [h]
@[simp] theorem framerNext_cfg (s : State) : (framerNext s).cfg = s.cfg := by
  obtain ⟨st, r, h⟩ | h | ⟨st, h⟩ | h := framerNext_cases s <;> simp [h]
@[simp] theorem framerNext_curOp (s : State) : (framerNext s).curOp = s.curOp := by
  obtain ⟨st, r, h⟩ | h | ⟨st, h⟩ | h := framerNext_cases s <;> simp [h]
@[simp] theorem framerNext_lastOp (s : State) : (framerNext s).lastOp = s.lastOp := by
  obtain ⟨st, r, h⟩ | h | ⟨st, h⟩ | h := framerNext_cases s <;> simp [h]
@[simp] theorem framerNext_elapsed (s : State) : (framerNext s).elapsed = s.elapsed := by
  obtain ⟨st, r, h⟩ | h | ⟨st, h⟩ | h := framerNext_cases s <;> simp [h]
@[simp] theorem framerNext_samples (s : State) : (framerNext s).samples = s.samples := by
  obtain ⟨st, r, h⟩ | h | ⟨st, h⟩ | h := framerNext_cases s <;> simp [h]
@[simp] theorem framerNext_notify (s : State) : (framerNext s).notify = s.notify := by
  obtain ⟨st, r, h⟩ | h | ⟨st, h⟩ | h := framerNext_cases s <;> simp [h]
@[simp] theorem framerNext_dcSh (s : State) : (framerNext s).dcSh = s.dcSh := by
  obtain ⟨st, r, h⟩ | h | ⟨st, h⟩ | h := framerNext_cases s <;> simp [h]
@[simp] theorem framerNext_csSh (s : State) : (framerNext s).csSh = s.csSh := by
  obtain ⟨st, r, h⟩ | h | ⟨st, h⟩ | h := framerNext_cases s <;> simp [h]
@[simp] theorem framerNext_rstSh (s : State) : (framerNext s).rstSh = s.rstSh := by
  obtain ⟨st, r, h⟩ | h | ⟨st, h⟩ | h := framerNext_cases s <;> simp [h]
@[simp] theorem framerNext_pbuf (s : State) : (framerNext s).pbuf = s.pbuf := by
  obtain ⟨st, r, h⟩ | h | ⟨st, h⟩ | h := framerNext_cases s <;> simp [h]
@[simp] theorem framerNext_src (s : State) : (framerNext s).src = s.src := by
  obtain ⟨st, r, h⟩ | h | ⟨st, h⟩ | h := framerNext_cases s <;> simp [h]
@[simp] theorem framerNext_faulted (s : State) : (framerNext s).faulted = s.faulted := by
  obtain ⟨st, r, h⟩ | h | ⟨st, h⟩ | h := framerNext_cases s <;> simp [h]
@[simp] theorem framerNext_now (s : State) : (framerNext s).env.now = s.env.now := by
  obtain ⟨st, r, h⟩ | h | ⟨st, h⟩ | h := framerNext_cases s <;> simp [h]
@[simp] theorem framerNext_ops (s : State) : (framerNext s).env.ops = s.env.ops := by
  obtain ⟨st, r, h⟩ | h | ⟨st, h⟩ | h := framerNext_cases s <;> simp [h]
@[simp] theorem framerNext_txns (s : State) : (framerNext s).env.txns = s.env.txns := by
  obtain ⟨st, r, h⟩ | h | ⟨st, h⟩ | h := framerNext_cases s <;> simp [h]
@[simp] theorem framerNext_regReads (s : State) : (framerNext s).env.regReads = s.env.regReads := by
  obtain ⟨st, r, h⟩ | h | ⟨st, h⟩ | h := framerNext_cases s <;> simp [h]
@[simp] theorem framerNext_resets (s : State) : (framerNext s).env.resets = s.env.resets := by
  obtain ⟨st, r, h⟩ | h | ⟨st, h⟩ | h := framerNext_cases s <;> simp [h]
@[simp] theorem framerNext_busyLevels (s : State) : (framerNext s).env.busyLevels = s.env.busyLevels := by
  obtain ⟨st, r, h⟩ | h | ⟨st, h⟩ | h := framerNext_cases s <;> simp [h]
@[simp] theorem framerNext_packTimes (s : State) : (framerNext s).env.packTimes = s.env.packTimes := by
  obtain ⟨st, r, h⟩ | h | ⟨st, h⟩ | h := framerNext_cases s <;> simp [h]
@[simp] theorem framerNext_packLeft (s : State) : (framerNext s).env.packLeft = s.env.packLeft := by
  obtain ⟨st, r, h⟩ | h | ⟨st, h⟩ | h := framerNext_cases s <;> simp [h]
@[simp] theorem framerNext_memReplies (s : State) : (framerNext s).env.memReplies = s.env.memReplies := by
  obtain ⟨st, r, h⟩ | h | ⟨st, h⟩ | h := framerNext_cases s <;> simp [h]
@[simp] theorem framerNext_regReplies (s : State) : (framerNext s).env.regReplies = s.env.regReplies := by
  obtain ⟨st, r, h⟩ | h | ⟨st, h⟩ | h := framerNext_cases s <;> simp [h]
@[simp] theorem framerNext_reached (s : State) : (framerNext s).env.reached = s.env.reached := by
  obtain ⟨st, r, h⟩ | h | ⟨st, h⟩ | h := framerNext_cases s <;> simp [h]

/-! ### replyArrives -/

@[simp] theorem replyArrives_build (o : Outstanding) (s : State) : (replyArrives o s).build = s.build := by
  unfold replyArrives; split <;> simp
@[simp] theorem replyArrives_cfg (o : Outstanding) (s : State) : (replyArrives o s).cfg = s.cfg := by
  unfold replyArrives; split <;> simp
@[simp] theorem replyArrives_curOp (o : Outstanding) (s : State) : (replyArrives o s).curOp = s.curOp := by
  unfold replyArrives; split <;> simp
@[simp] theorem replyArrives_lastOp (o : Outstanding) (s : State) : (replyArrives o s).lastOp = s.lastOp := by
  unfold replyArrives; split <;> simp
@[simp] theorem replyArrives_elapsed (o : Outstanding) (s : State) : (replyArrives o s).elapsed = s.elapsed := by
  unfold replyArrives; split <;> simp
@[simp] theorem replyArrives_samples (o : Outstanding) (s : State) : (replyArrives o s).samples = s.samples := by
  unfold replyArrives; split <;> simp
@[simp] theorem replyArrives_notify (o : Outstanding) (s : State) : (replyArrives o s).notify = s.notify := by
  unfold replyArrives; split <;> simp
@[simp] theorem replyArrives_pbuf (o : Outstanding) (s : State) : (replyArrives o s).pbuf = s.pbuf := by
  unfold replyArrives; split <;> simp
@[simp] theorem replyArrives_src (o : Outstanding) (s : State) : (replyArrives o s).src = s.src := by
  unfold replyArrives; split <;> simp
@[simp] theorem replyArrives_faulted (o : Outstanding) (s : State) : (replyArrives o s).faulted = s.faulted := by
  unfold replyArrives; split <;> simp
@[simp] theorem replyArrives_now (o : Outstanding) (s : State) : (replyArrives o s).env.now = s.env.now := by
  unfold replyArrives; split <;> simp
@[simp] theorem replyArrives_ops (o : Outstanding) (s : State) : (replyArrives o s).env.ops = s.env.ops := by
  unfold replyArrives; split <;> simp
@[simp] theorem replyArrives_txns (o : Outstanding) (s : State) : (replyArrives o s).env.txns = s.env.txns := by
  unfold replyArrives; split <;> simp
@[simp] theorem replyArrives_regReads (o : Outstanding) (s : State) : (replyArrives o s).env.regReads = s.env.regReads := by
  unfold replyArrives; split <;> simp
@[simp] theorem replyArrives_resets (o : Outstanding) (s : State) : (replyArrives o s).env.resets = s.env.resets := by
  unfold replyArrives; split <;> simp
@[simp] theorem replyArrives_busyLevels (o : Outstanding) (s : State) : (replyArrives o s).env.busyLevels = s.env.busyLevels := by
  unfold replyArrives; split <;> simp
@[simp] theorem replyArrives_packTimes (o : Outstanding) (s : State) : (replyArrives o s).env.packTimes = s.env.packTimes := by
  unfold replyArrives; split <;> simp
@[simp] theorem replyArrives_packLeft (o : Outstanding) (s : State) : (replyArrives o s).env.packLeft = s.env.packLeft := by
  unfold replyArrives; split <;> simp
@[simp] theorem replyArrives_memReplies (o : Outstanding) (s : State) : (replyArrives o s).env.memReplies = s.env.memReplies := by
  unfold replyArrives; split <;> simp
@[simp] theorem replyArrives_regReplies (o : Outstanding) (s : State) : (replyArrives o s).env.regReplies = s.env.regReplies := by
  unfold replyArrives; split <;> simp

/-! ### framerTick -/

@[simp] theorem framerTick_build (s : State) : (framerTick s).build = s.build := by
  unfold framerTick; (repeat' split) <;> simp
@[simp] theorem framerTick_cfg (s : State) : (framerTick s).cfg = s.cfg := by
  unfold framerTick; (repeat' split) <;> simp
@[simp] theorem framerTick_curOp (s : State) : (framerTick s).curOp = s.curOp := by
  unfold framerTick; (repeat' split) <;> simp
@[simp] theorem framerTick_lastOp (s : State) : (framerTick s).lastOp = s.lastOp := by
  unfold framerTick; (repeat' split) <;> simp
@[simp] theorem framerTick_elapsed (s : State) : (framerTick s).elapsed = s.elapsed := by
  unfold framerTick; (repeat' split) <;> simp
@[simp] theorem framerTick_samples (s : State) : (framerTick s).samples = s.samples := by
  unfold framerTick; (repeat' split) <;> simp
@[simp] theorem framerTick_notify (s : State) : (framerTick s).notify = s.notify := by
  unfold framerTick; (repeat' split) <;> simp
@[simp] theorem framerTick_pbuf (s : State) : (framerTick s).pbuf = s.pbuf := by
  unfold framerTick; (repeat' split) <;> simp
@[simp] theorem framerTick_src (s : State) : (framerTick s).src = s.src := by
  unfold framerTick; (repeat' split) <;> simp
@[simp] theorem framerTick_faulted (s : State) : (framerTick s).faulted = s.faulted := by
  unfold framerTick; (repeat' split) <;> simp
@[simp] theorem framerTick_now (s : State) : (framerTick s).env.now = s.env.now := by
  unfold framerTick; (repeat' split) <;> simp
@[simp] theorem framerTick_ops (s : State) : (framerTick s).env.ops = s.env.ops := by
  unfold framerTick; (repeat' split) <;> simp
@[simp] theorem framerTick_txns (s : State) : (framerTick s).env.txns = s.env.txns := by
  unfold framerTick; (repeat' split) <;> simp
@[simp] theorem framerTick_regReads (s : State) : (framerTick s).env.regReads = s.env.regReads := by
  unfold framerTick; (repeat' split) <;> simp
@[simp] theorem framerTick_resets (s : State) : (framerTick s).env.resets = s.env.resets := by
  unfold framerTick; (repeat' split) <;> simp
@[simp] theorem framerTick_busyLevels (s : State) : (framerTick s).env.busyLevels = s.env.busyLevels := by
  unfold framerTick; (repeat' split) <;> simp
@[simp] theorem framerTick_packTimes (s : State) : (framerTick s).env.packTimes = s.env.packTimes := by
  unfold framerTick; (repeat' split) <;> simp
@[simp] theorem framerTick_packLeft (s : State) : (framerTick s).env.packLeft = s.env.packLeft := by
  unfold framerTick; (repeat' split) <;> simp
@[simp] theorem framerTick_memReplies (s : State) : (framerTick s).env.memReplies = s.env.memReplies := by
  unfold framerTick; (repeat' split) <;> simp
@[simp] theorem framerTick_regReplies (s : State) : (framerTick s).env.regReplies = s.env.regReplies := by
  unfold framerTick; (repeat' split) <;> simp

/-! ### waitTick -/

@[simp] theorem waitTick_build (s : State) : (waitTick s).build = s.build := by
  obtain h | h | h | h := waitTick_cases s <;> simp [h]
@[simp] theorem waitTick_cfg (s : State) : (waitTick s).cfg = s.cfg := by
  obtain h | h | h | h := waitTick_cases s <;> simp [h]
@[simp] theorem waitTick_curOp (s : State) : (waitTick s).curOp = s.curOp := by
  obtain h | h | h | h := waitTick_cases s <;> simp [h]
@[simp] theorem waitTick_lastOp (s : State) : (waitTick s).lastOp = s.lastOp := by
  obtain h | h | h | h := waitTick_cases s <;> simp [h]
@[simp] theorem waitTick_fcnt (s : State) : (waitTick s).fcnt = s.fcnt := by
  obtain h | h | h | h := waitTick_cases s <;> simp [h]
@[simp] theorem waitTick_dcSh (s : State) : (waitTick s).dcSh = s.dcSh := by
  obtain h | h | h | h := waitTick_cases s <;> simp [h]
@[simp] theorem waitTick_csSh (s : State) : (waitTick s).csSh = s.csSh := by
  obtain h | h | h | h := waitTick_cases s <;> simp [h]
@[simp] theorem waitTick_rstSh (s : State) : (waitTick s).rstSh = s.rstSh := by
  obtain h | h | h | h := waitTick_cases s <;> simp [h]
@[simp] theorem waitTick_pbuf (s : State) : (waitTick s).pbuf = s.pbuf := by
  obtain h | h | h | h := waitTick_cases s <;> simp [h]
@[simp] theorem waitTick_src (s : State) : (waitTick s).src = s.src := by
  obtain h | h | h | h := waitTick_cases s <;> simp [h]
@[simp] theorem waitTick_faulted (s : State) : (waitTick s).faulted = s.faulted := by
  obtain h | h | h | h := waitTick_cases s <;> simp [h]
@[simp] theorem waitTick_now (s : State) : (waitTick s).env.now = s.env.now := by
  obtain h | h | h | h := waitTick_cases s <;> simp [h]
@[simp] theorem waitTick_ops (s : State) : (waitTick s).env.ops = s.env.ops := by
  obtain h | h | h | h := waitTick_cases s <;> simp [h]
@[simp] theorem waitTick_txns (s : State) : (waitTick s).env.txns = s.env.txns := by
  obtain h | h | h | h := waitTick_cases s <;> simp [h]
@[simp] theorem waitTick_regReads (s : State) : (waitTick s).env.regReads = s.env.regReads := by
  obtain h | h | h | h := waitTick_cases s <;> simp [h]
@[simp] theorem waitTick_resets (s : State) : (waitTick s).env.resets = s.env.resets := by
  obtain h | h | h | h := waitTick_cases s <;> simp [h]
@[simp] theorem waitTick_answers (s : State) : (waitTick s).env.answers = s.env.answers := by
  obtain h | h | h | h := waitTick_cases s <;> simp [h]
@[simp] theorem waitTick_packTimes (s : State) : (waitTick s).env.packTimes = s.env.packTimes := by
  obtain h | h | h | h := waitTick_cases s <;> simp [h]
@[simp] theorem waitTick_outstanding (s : State) : (waitTick s).env.outstanding = s.env.outstanding := by
  obtain h | h | h | h := waitTick_cases s <;> simp [h]
@[simp] theorem waitTick_packLeft (s : State) : (waitTick s).env.packLeft = s.env.packLeft := by
  obtain h | h | h | h := waitTick_cases s <;> simp [h]
@[simp] theorem waitTick_memReplies (s : State) : (waitTick s).env.memReplies = s.env.memReplies := by
  obtain h | h | h | h := waitTick_cases s <;> simp [h]
@[simp] theorem waitTick_regReplies (s : State) : (waitTick s).env.regReplies = s.env.regReplies := by
  obtain h | h | h | h := waitTick_cases s <;> simp [h]
@[simp] theorem waitTick_reached (s : State) : (waitTick s).env.reached = s.env.reached := by
  obtain h | h | h | h := waitTick_cases s <;> simp [h]

/-! ### packTick -/

@[simp] theorem packTick_build (s : State) : (packTick s).build = s.build := by
  obtain h | h := packTick_cases s <;> simp [h]
@[simp] theorem packTick_cfg (s : State) : (packTick s).cfg = s.cfg := by
  obtain h | h := packTick_cases s <;> simp [h]
@[simp] theorem packTick_curOp (s : State) : (packTick s).curOp = s.curOp := by
  obtain h | h := packTick_cases s <;> simp [h]
@[simp] theorem packTick_lastOp (s : State) : (packTick s).lastOp = s.lastOp := by
  obtain h | h := packTick_cases s <;> simp [h]
@[simp] theorem packTick_fcnt (s : State) : (packTick s).fcnt = s.fcnt := by
  obtain h | h := packTick_cases s <;> simp [h]
@[simp] theorem packTick_elapsed (s : State) : (packTick s).elapsed = s.elapsed := by
  obtain h | h := packTick_cases s <;> simp [h]
@[simp] theorem packTick_samples (s : State) : (packTick s).samples = s.samples := by
  obtain h | h := packTick_cases s <;> simp [h]
@[simp] theorem packTick_notify (s : State) : (packTick s).notify = s.notify := by
  obtain h | h := packTick_cases s <;> simp [h]
@[simp] theorem packTick_dcSh (s : State) : (packTick s).dcSh = s.dcSh := by
  obtain h | h := packTick_cases s <;> simp [h]
@[simp] theorem packTick_csSh (s : State) : (packTick s).csSh = s.csSh := by
  obtain h | h := packTick_cases s <;> simp [h]
@[simp] theorem packTick_rstSh (s : State) : (packTick s).rstSh = s.rstSh := by
  obtain h | h := packTick_cases s <;> simp [h]
@[simp] theorem packTick_src (s : State) : (packTick s).src = s.src := by
  obtain h | h := packTick_cases s <;> simp [h]
@[simp] theorem packTick_faulted (s : State) : (packTick s).faulted = s.faulted := by
  obtain h | h := packTick_cases s <;> simp [h]
@[simp] theorem packTick_now (s : State) : (packTick s).env.now = s.env.now := by
  obtain h | h := packTick_cases s <;> simp [h]
@[simp] theorem packTick_ops (s : State) : (packTick s).env.ops = s.env.ops := by
  obtain h | h := packTick_cases s <;> simp [h]
@[simp] theorem packTick_txns (s : State) : (packTick s).env.txns = s.env.txns := by
  obtain h | h := packTick_cases s <;> simp [h]
@[simp] theorem packTick_regReads (s : State) : (packTick s).env.regReads = s.env.regReads := by
  obtain h | h := packTick_cases s <;> simp [h]
@[simp] theorem packTick_resets (s : State) : (packTick s).env.resets = s.env.resets := by
  obtain h | h := packTick_cases s <;> simp [h]
@[simp] theorem packTick_answers (s : State) : (packTick s).env.answers = s.env.answers := by
  obtain h | h := packTick_cases s <;> simp [h]
@[simp] theorem packTick_busyLevels (s : State) : (packTick s).env.busyLevels = s.env.busyLevels := by
  obtain h | h := packTick_cases s <;> simp [h]
@[simp] theorem packTick_packTimes (s : State) : (packTick s).env.packTimes = s.env.packTimes := by
  obtain h | h := packTick_cases s <;> simp [h]
@[simp] theorem packTick_draws (s : State) : (packTick s).env.draws = s.env.draws := by
  obtain h | h := packTick_cases s <;> simp [h]
@[simp] theorem packTick_outstanding (s : State) : (packTick s).env.outstanding = s.env.outstanding := by
  obtain h | h := packTick_cases s <;> simp [h]
@[simp] theorem packTick_memReplies (s : State) : (packTick s).env.memReplies = s.env.memReplies := by
  obtain h | h := packTick_cases s <;> simp [h]
@[simp] theorem packTick_regReplies (s : State) : (packTick s).env.regReplies = s.env.regReplies := by
  obtain h | h := packTick_cases s <;> simp [h]
@[simp] theorem packTick_reached (s : State) : (packTick s).env.reached = s.env.reached := by
  obtain h | h := packTick_cases s <;> simp [h]

/-! ### engineTick -/

@[simp] theorem engineTick_build (s : State) : (engineTick s).build = s.build := by
  obtain h | h | h | h := engineTick_cases s <;> simp [h]
@[simp] theorem engineTick_cfg (s : State) : (engineTick s).cfg = s.cfg := by
  obtain h | h | h | h := engineTick_cases s <;> simp [h]
@[simp] theorem engineTick_curOp (s : State) : (engineTick s).curOp = s.curOp := by
  obtain h | h | h | h := engineTick_cases s <;> simp [h]
@[simp] theorem engineTick_lastOp (s : State) : (engineTick s).lastOp = s.lastOp := by
  obtain h | h | h | h := engineTick_cases s <;> simp [h]
@[simp] theorem engineTick_src (s : State) : (engineTick s).src = s.src := by
  obtain h | h | h | h := engineTick_cases s <;> simp [h]
@[simp] theorem engineTick_faulted (s : State) : (engineTick s).faulted = s.faulted := by
  obtain h | h | h | h := engineTick_cases s <;> simp [h]
@[simp] theorem engineTick_now (s : State) : (engineTick s).env.now = s.env.now := by
  obtain h | h | h | h := engineTick_cases s <;> simp [h]
@[simp] theorem engineTick_ops (s : State) : (engineTick s).env.ops = s.env.ops := by
  obtain h | h | h | h := engineTick_cases s <;> simp [h]
@[simp] theorem engineTick_txns (s : State) : (engineTick s).env.txns = s.env.txns := by
  obtain h | h | h | h := engineTick_cases s <;> simp [h]
@[simp] theorem engineTick_regReads (s : State) : (engineTick s).env.regReads = s.env.regReads := by
  obtain h | h | h | h := engineTick_cases s <;> simp [h]
@[simp] theorem engineTick_resets (s : State) : (engineTick s).env.resets = s.env.resets := by
  obtain h | h | h | h := engineTick_cases s <;> simp [h]
@[simp] theorem engineTick_packTimes (s : State) : (engineTick s).env.packTimes = s.env.packTimes := by
  obtain h | h | h | h := engineTick_cases s <;> simp [h]
@[simp] theorem engineTick_memReplies (s : State) : (engineTick s).env.memReplies = s.env.memReplies := by
  obtain h | h | h | h := engineTick_cases s <;> simp [h]
@[simp] theorem engineTick_regReplies (s : State) : (engineTick s).env.regReplies = s.env.regReplies := by
  obtain h | h | h | h := engineTick_cases s <;> simp [h]

end Sys2Proof.Machine
end

