-- ==== Sys2Proof/Laws/Reads.lean ====
section
/-! SUPPORT. The register reads the host makes are independent of everything else a tick does (10_state.md R32): erasing
them commutes with every engine, with a tick and with the run of an operation. A statement that says nothing of the reads
may therefore be proved of states without reads, where the register port does nothing. -/

namespace Sys2Proof.Machine

@[simp] theorem eraseReads_build (s : State) : (eraseReads s).build = s.build := rfl
@[simp] theorem eraseReads_cfg (s : State) : (eraseReads s).cfg = s.cfg := rfl
@[simp] theorem eraseReads_opState (s : State) : (eraseReads s).opState = s.opState := rfl
@[simp] theorem eraseReads_curOp (s : State) : (eraseReads s).curOp = s.curOp := rfl
@[simp] theorem eraseReads_result (s : State) : (eraseReads s).result = s.result := rfl
@[simp] theorem eraseReads_lastOp (s : State) : (eraseReads s).lastOp = s.lastOp := rfl
@[simp] theorem eraseReads_framer (s : State) : (eraseReads s).framer = s.framer := rfl
@[simp] theorem eraseReads_fcnt (s : State) : (eraseReads s).fcnt = s.fcnt := rfl
@[simp] theorem eraseReads_sync (s : State) : (eraseReads s).sync = s.sync := rfl
@[simp] theorem eraseReads_elapsed (s : State) : (eraseReads s).elapsed = s.elapsed := rfl
@[simp] theorem eraseReads_samples (s : State) : (eraseReads s).samples = s.samples := rfl
@[simp] theorem eraseReads_notify (s : State) : (eraseReads s).notify = s.notify := rfl
@[simp] theorem eraseReads_packer (s : State) : (eraseReads s).packer = s.packer := rfl
@[simp] theorem eraseReads_dcSh (s : State) : (eraseReads s).dcSh = s.dcSh := rfl
@[simp] theorem eraseReads_csSh (s : State) : (eraseReads s).csSh = s.csSh := rfl
@[simp] theorem eraseReads_rstSh (s : State) : (eraseReads s).rstSh = s.rstSh := rfl
@[simp] theorem eraseReads_pbuf (s : State) : (eraseReads s).pbuf = s.pbuf := rfl
@[simp] theorem eraseReads_src (s : State) : (eraseReads s).src = s.src := rfl
@[simp] theorem eraseReads_faulted (s : State) : (eraseReads s).faulted = s.faulted := rfl
@[simp] theorem eraseReads_now (s : State) : (eraseReads s).env.now = s.env.now := rfl
@[simp] theorem eraseReads_ops (s : State) : (eraseReads s).env.ops = s.env.ops := rfl
@[simp] theorem eraseReads_txns (s : State) : (eraseReads s).env.txns = s.env.txns := rfl
@[simp] theorem eraseReads_regReads (s : State) : (eraseReads s).env.regReads = [] := rfl
@[simp] theorem eraseReads_resets (s : State) : (eraseReads s).env.resets = s.env.resets := rfl
@[simp] theorem eraseReads_answers (s : State) : (eraseReads s).env.answers = s.env.answers := rfl
@[simp] theorem eraseReads_busyLevels (s : State) : (eraseReads s).env.busyLevels = s.env.busyLevels := rfl
@[simp] theorem eraseReads_packTimes (s : State) : (eraseReads s).env.packTimes = s.env.packTimes := rfl
@[simp] theorem eraseReads_draws (s : State) : (eraseReads s).env.draws = s.env.draws := rfl
@[simp] theorem eraseReads_outstanding (s : State) : (eraseReads s).env.outstanding = s.env.outstanding := rfl
@[simp] theorem eraseReads_packLeft (s : State) : (eraseReads s).env.packLeft = s.env.packLeft := rfl
@[simp] theorem eraseReads_trace (s : State) : (eraseReads s).env.trace = s.env.trace := rfl
@[simp] theorem eraseReads_memReplies (s : State) : (eraseReads s).env.memReplies = s.env.memReplies := rfl
@[simp] theorem eraseReads_reached (s : State) : (eraseReads s).env.reached = s.env.reached := rfl

/-! ### The shared operations -/

/-- With no read due the register port does nothing. -/
theorem readPort_none {s : State} (h : s.env.regReads = []) : readPort s = s := by simp [readPort, h]

theorem eraseReads_readPort (s : State) : eraseReads (readPort s) = eraseReads s := by
  unfold readPort
  split
  · rfl
  · split <;> rfl

theorem eraseReads_issue (st : FramerState) (r : Request) (s : State) :
    issue st r (eraseReads s) = eraseReads (issue st r s) := by
  cases h : s.env.answers <;> simp [issue, eraseReads, takeAnswer, nextAnswer, h]

theorem eraseReads_finish (code : Result) (s : State) : finish code (eraseReads s) = eraseReads (finish code s) := rfl

theorem eraseReads_accept (w : Word) (s : State) : accept w (eraseReads s) = eraseReads (accept w s) := rfl

theorem eraseReads_endTick (s : State) : endTick (eraseReads s) = eraseReads (endTick s) := rfl

theorem eraseReads_setShadow (p : Pin) (v : Shadow) (s : State) :
    setShadow p v (eraseReads s) = eraseReads (setShadow p v s) := by cases p <;> rfl

theorem eraseReads_takeReply (o : Outstanding) (s : State) :
    takeReply o (eraseReads s) = eraseReads (takeReply o s) := by
  unfold takeReply
  cases o.req with
  | setPin p l => cases p <;> rfl
  | transmit bs => rfl

theorem eraseReads_sampleBusy (s : State) : sampleBusy (eraseReads s) = eraseReads (sampleBusy s) := by
  cases h : s.env.busyLevels <;> simp [sampleBusy, eraseReads, takeBusy, nextBusy, h, log, logAt]

theorem eraseReads_exitWait (code : Result) (s : State) : exitWait code (eraseReads s) = eraseReads (exitWait code s) := by
  cases h : s.cfg.notifyEn <;> simp [exitWait, eraseReads, h, log, logAt, finish]

theorem eraseReads_enterWait (s : State) : enterWait (eraseReads s) = eraseReads (enterWait s) := by
  cases h : s.cfg.notifyEn <;> simp [enterWait, eraseReads, h, log, logAt]

theorem eraseReads_startPack (s : State) : startPack (eraseReads s) = eraseReads (startPack s) := by
  cases h : s.env.packTimes <;> simp [startPack, eraseReads, takePackTime, nextPackTime, h]

theorem eraseReads_resetTick (s : State) : resetTick (eraseReads s) = eraseReads (resetTick s) := by
  cases h : s.env.resets with
  | nil => simp [resetTick, eraseReads, h, endTick]
  | cons r rest =>
    cases ho : s.env.outstanding <;>
      simp [resetTick, eraseReads, h, ho, endTick, resetBlock, dropOutstanding, logAt, State.afterReset]

/-! ### The engines -/

theorem eraseReads_startFrame (l : Level) (s : State) : startFrame l (eraseReads s) = eraseReads (startFrame l s) :=
  eraseReads_issue _ _ s

theorem eraseReads_startPulse (s : State) : startPulse (eraseReads s) = eraseReads (startPulse s) :=
  eraseReads_issue _ _ { s with fcnt := 0 }

theorem eraseReads_holdDone (s : State) : holdDone (eraseReads s) = eraseReads (holdDone s) := by
  unfold holdDone
  simp only [eraseReads_framer]
  split <;> first | exact eraseReads_issue _ _ s | rfl

theorem eraseReads_startHold (st : FramerState) (s : State) :
    startHold st (eraseReads s) = eraseReads (startHold st s) := by
  have h := eraseReads_holdDone { s with framer := st, fcnt := 0 }
  unfold startHold
  by_cases h0 : holdTicks s.cfg st = 0
  · simp only [eraseReads_cfg, h0, if_true]; exact h
  · simp only [eraseReads_cfg, h0, if_false]; rfl

theorem eraseReads_holdTick (s : State) : holdTick (eraseReads s) = eraseReads (holdTick s) := by
  have h := eraseReads_holdDone { s with fcnt := s.fcnt + 1 }
  unfold holdTick
  by_cases h0 : holdTicks s.cfg s.framer ≤ (s.fcnt + 1).toNat
  · simp only [eraseReads_framer, eraseReads_fcnt, eraseReads_cfg, h0, if_true]
    split <;> first | rfl | exact h
  · simp only [eraseReads_framer, eraseReads_fcnt, eraseReads_cfg, h0, if_false]
    split <;> rfl

theorem eraseReads_framerNext (s : State) : framerNext (eraseReads s) = eraseReads (framerNext s) := by
  unfold framerNext
  simp only [eraseReads_framer]
  split <;> first | exact eraseReads_issue _ _ s | exact eraseReads_startHold _ s | rfl

theorem eraseReads_framerTick (s : State) : framerTick (eraseReads s) = eraseReads (framerTick s) := by
  unfold framerTick
  cases ho : s.env.outstanding with
  | none => simp only [eraseReads_outstanding, ho]; exact eraseReads_holdTick s
  | some o =>
    by_cases hl : o.left ≤ 1
    · simp only [eraseReads_outstanding, ho, hl, if_true, replyArrives, eraseReads_takeReply]
      cases o.answer.ok <;> simp only [Bool.false_eq_true, if_true, if_false]
      · rfl
      · exact eraseReads_framerNext _
    · simp only [eraseReads_outstanding, ho, hl, if_false]; rfl

theorem eraseReads_waitTick (s : State) : waitTick (eraseReads s) = eraseReads (waitTick s) := by
  unfold waitTick
  have h : nextBusy (eraseReads s).env = nextBusy s.env := rfl
  rw [eraseReads_sampleBusy, eraseReads_exitWait, eraseReads_exitWait, h]
  simp only [eraseReads_elapsed, eraseReads_cfg]
  by_cases h1 : s.elapsed % s.cfg.pollTicks.toNat = 0 <;>
    by_cases h2 : nextBusy s.env = s.cfg.busyActiveLevel <;>
      by_cases h3 : s.cfg.timeoutTicks.toNat < s.elapsed <;>
        simp only [h1, h2, h3, ne_eq, not_true_eq_false, not_false_eq_true, if_true, if_false] <;> rfl

theorem eraseReads_packTick (s : State) : packTick (eraseReads s) = eraseReads (packTick s) := by
  unfold packTick
  by_cases h : s.env.packLeft ≤ 1 <;> simp only [eraseReads_packLeft, h, if_true, if_false] <;> rfl

theorem eraseReads_engineTick (s : State) : engineTick (eraseReads s) = eraseReads (engineTick s) := by
  unfold engineTick
  simp only [eraseReads_curOp]
  split <;> first
    | exact eraseReads_framerTick s
    | exact eraseReads_waitTick s
    | exact eraseReads_packTick s
    | rfl

/-! ### A tick and the run of an operation -/

theorem eraseReads_tick (s : State) : tick (eraseReads s) = eraseReads (tick s) := by
  have h : resetDue (eraseReads s) = resetDue s := rfl
  unfold tick
  rw [h]
  split
  · exact eraseReads_resetTick s
  · rw [readPort_none rfl, ← eraseReads_readPort, eraseReads_engineTick, eraseReads_endTick]

theorem eraseReads_runTicks (n : Nat) (s : State) : runTicks n (eraseReads s) = eraseReads (runTicks n s) := by
  induction n generalizing s with
  | zero => rfl
  | succ n ih =>
    cases h : s.opState with
    | idle => rw [runTicks_idle h, runTicks_idle (s := eraseReads s) h]
    | busy => rw [runTicks_busy h, runTicks_busy (s := eraseReads s) h, eraseReads_tick, ih]

theorem eraseReads_complete (s : State) : complete (eraseReads s) = eraseReads (complete s) := by
  have h : ∀ k s, runPhases k (eraseReads s) = eraseReads (runPhases k s) := by
    intro k
    induction k with
    | zero => exact fun s => rfl
    | succ k ih =>
      intro s
      have hp : phaseTicks (eraseReads s) = phaseTicks s := rfl
      rw [runPhases, runPhases, hp, eraseReads_runTicks, ih]
  exact h 6 s

end Sys2Proof.Machine
end

