-- ==== Sys2Proof/Laws/Run.lean ====
section
/-! SUPPORT. The run of an operation: it comes to its finish whatever the environment draws and whether or not a reset
abandons it; and what a request, from its issue to its return, makes of the state. -/

namespace Sys2Proof.Machine

/-! ### Which engine runs -/

/-- The operations of the framer (30_encoding.md R93). -/
def FramerOp (w : Word) : Prop := fieldOp w = 1 ∨ fieldOp w = 2 ∨ fieldOp w = 3 ∨ fieldOp w = 5

/-- The operations of the packer. -/
def PackerOp (w : Word) : Prop := fieldOp w = 6 ∨ fieldOp w = 7

theorem engineTick_framer {s : State} (h : FramerOp s.curOp) : engineTick s = framerTick s := by
  rcases h with h | h | h | h <;> simp [engineTick, h]

theorem engineTick_wait {s : State} (h : fieldOp s.curOp = 4) : engineTick s = waitTick s := by
  simp [engineTick, h]

theorem engineTick_packer {s : State} (h : PackerOp s.curOp) : engineTick s = packTick s := by
  rcases h with h | h <;> simp [engineTick, h]

/-! ### Every operation comes to its finish -/

/-- The framer states in which a request is outstanding. -/
def awaits : FramerState → Bool
  | .fDc | .fCsa | .fTx | .fCsd | .rSet1 | .rSet2 | .rSet3 => true
  | _ => false

/-- The framer states that are holds. -/
def holds : FramerState → Bool
  | .rHold1 | .rDelay | .rHold2 => true
  | _ => false

/-- A tick of a hold. -/
theorem holdTick_eq {s : State} (hf : holds s.framer = true) :
    holdTick s =
      if holdTicks s.cfg s.framer ≤ (s.fcnt + 1).toNat then holdDone { s with fcnt := s.fcnt + 1 }
      else { s with fcnt := s.fcnt + 1 } := by
  revert hf; unfold holdTick; cases hs : s.framer <;> simp [holds]

/-- How many phases of its operation the framer has before it. -/
def phasesLeft : FramerState → Nat
  | .fIdle => 0
  | .fCsd | .rHold2 => 1
  | .fTx | .rSet3 => 2
  | .fCsa | .rDelay => 3
  | .fDc | .rSet2 => 4
  | .rHold1 => 5
  | .rSet1 => 6

/-- The states of an operation in progress, with the ticks to the end of the phase it is in. -/
inductive Going (s : State) : Nat → Nat → Prop where
  /-- The framer awaits a request. -/
  | request (o : Outstanding) (hb : s.opState = .busy) (hop : FramerOp s.curOp) (ho : s.env.outstanding = some o)
      (hf : awaits s.framer = true) : Going s (phasesLeft s.framer) o.left
  /-- The framer counts a hold. -/
  | hold (hb : s.opState = .busy) (hop : FramerOp s.curOp) (ho : s.env.outstanding = none)
      (hf : holds s.framer = true) (hc : s.fcnt.toNat < holdTicks s.cfg s.framer) :
      Going s (phasesLeft s.framer) (holdTicks s.cfg s.framer - s.fcnt.toNat)
  /-- The synchronizer polls. -/
  | wait (hb : s.opState = .busy) (hop : fieldOp s.curOp = 4) (hp : 1 ≤ s.cfg.pollTicks.toNat)
      (he : s.elapsed ≤ (s.cfg.timeoutTicks.toNat / s.cfg.pollTicks.toNat + 1) * s.cfg.pollTicks.toNat) :
      Going s 1 ((s.cfg.timeoutTicks.toNat / s.cfg.pollTicks.toNat + 1) * s.cfg.pollTicks.toNat + 1 - s.elapsed)
  /-- The packer packs. -/
  | pack (hb : s.opState = .busy) (hop : PackerOp s.curOp) : Going s 1 s.env.packLeft

theorem Going.busy {s : State} {r n : Nat} (h : Going s r n) : s.opState = .busy := by cases h <;> assumption

/-- Where a state is after a tick of an operation with `r` phases and `n` ticks of the phase before it: at the finish, in a
later phase, or in the same phase one tick nearer its end. -/
def Advanced (r n : Nat) (t : State) : Prop :=
  t.opState = .idle ∨ ∃ r' n', Going t r' n' ∧ (r' < r ∨ r' = r ∧ 1 ≤ n' ∧ n' + 1 = n)

theorem advanced_idle {r n : Nat} {t : State} (h : t.opState = .idle) : Advanced r n t := .inl h

theorem advanced_issue {r n : Nat} {st : FramerState} {q : Request} {s : State} (hb : s.opState = .busy)
    (hop : FramerOp s.curOp) (hf : awaits st = true) (hr : phasesLeft st < r) :
    Advanced r n (endTick (issue st q s)) := by
  refine .inr ⟨_, _, .request ⟨q, s.env.now, (nextAnswer s.env).extra + 1, nextAnswer s.env⟩ (by simpa using hb)
    (by simpa using hop) rfl (by simpa using hf), .inl ?_⟩
  simpa using hr

theorem advanced_holdDone {r n : Nat} {s : State} (hb : s.opState = .busy) (hop : FramerOp s.curOp)
    (hf : holds s.framer = true) (hr : phasesLeft s.framer ≤ r) : Advanced r n (endTick (holdDone s)) := by
  unfold holdDone
  split
  · exact advanced_issue hb hop rfl (by simp_all [phasesLeft]; omega)
  · exact advanced_issue hb hop rfl (by simp_all [phasesLeft]; omega)
  · exact advanced_idle rfl
  · exfalso; revert hf; cases hs : s.framer <;> simp_all [holds]

theorem advanced_startHold {r n : Nat} {st : FramerState} {s : State} (hb : s.opState = .busy)
    (hop : FramerOp s.curOp) (ho : s.env.outstanding = none) (hf : holds st = true) (hr : phasesLeft st < r) :
    Advanced r n (endTick (startHold st s)) := by
  simp only [startHold]
  split
  · exact advanced_holdDone hb hop hf (by simpa using hr.le)
  · rename_i hz
    refine .inr ⟨_, _, .hold (by simpa using hb) (by simpa using hop) (by simpa using ho) (by simpa using hf) ?_,
      .inl ?_⟩
    · simpa using Nat.pos_of_ne_zero hz
    · simpa using hr

theorem advanced_framerNext {r n : Nat} {s : State} (hb : s.opState = .busy) (hop : FramerOp s.curOp)
    (ho : s.env.outstanding = none) (hf : awaits s.framer = true) (hr : phasesLeft s.framer ≤ r) :
    Advanced r n (endTick (framerNext s)) := by
  unfold framerNext
  split
  case h_8 => exfalso; revert hf; cases hs : s.framer <;> simp_all [awaits]
  case h_4 => exact advanced_idle rfl
  all_goals
    rename_i hs
    rw [hs] at hr
    simp only [phasesLeft] at hr
  · exact advanced_issue hb hop rfl (by simp [phasesLeft]; omega)
  · exact advanced_issue hb hop rfl (by simp [phasesLeft]; omega)
  · exact advanced_issue hb hop rfl (by simp [phasesLeft]; omega)
  · exact advanced_startHold hb hop ho rfl (by simp [phasesLeft]; omega)
  · exact advanced_startHold hb hop ho rfl (by simp [phasesLeft]; omega)
  · exact advanced_startHold hb hop ho rfl (by simp [phasesLeft]; omega)

/-- A tick without a reset brings an operation in progress nearer its finish. -/
theorem advanced_engineTick {r n : Nat} {s : State} (h : Going s r n) : Advanced r n (endTick (engineTick s)) := by
  cases h with
  | request o hb hop ho hf =>
    rw [engineTick_framer hop]
    simp only [framerTick, ho]
    split
    · unfold replyArrives
      split
      · exact advanced_framerNext (by simpa using hb) (by simpa using hop) (takeReply_outstanding o s)
          (by simpa using hf) (by simp)
      · exact advanced_idle rfl
    · rename_i hl
      refine .inr ⟨_, _, .request { o with left := o.left - 1 } (by simpa using hb) (by simpa using hop) rfl
        (by simpa using hf), .inr ⟨by simp, ?_, ?_⟩⟩ <;> simp only <;> omega
  | hold hb hop ho hf hc =>
    rw [engineTick_framer hop]
    simp only [framerTick, ho]
    have hlt : s.fcnt.toNat + 1 < 2 ^ 32 := by
      have : holdTicks s.cfg s.framer < 2 ^ 32 := by
        revert hf; unfold holdTicks; cases s.framer <;> simp [holds] <;> exact BitVec.isLt _
      omega
    have hinc : (s.fcnt + 1).toNat = s.fcnt.toNat + 1 := by
      rw [BitVec.toNat_add]; simpa using hlt
    rw [holdTick_eq hf]
    split
    · exact advanced_holdDone hb hop hf (by simp)
    · rename_i hn
      refine .inr ⟨_, _, .hold (by simpa using hb) (by simpa using hop) (by simpa using ho) (by simpa using hf) ?_,
        .inr ⟨by simp, ?_, ?_⟩⟩
      all_goals simp only [endTick_fcnt, endTick_cfg, endTick_framer]; omega
  | wait hb hop hp he =>
    rw [engineTick_wait hop]
    have hnext : ∀ t : State, t.opState = .busy → t.curOp = s.curOp → t.cfg = s.cfg → t.elapsed = s.elapsed + 1 →
        s.elapsed < (s.cfg.timeoutTicks.toNat / s.cfg.pollTicks.toNat + 1) * s.cfg.pollTicks.toNat →
        Advanced 1 ((s.cfg.timeoutTicks.toNat / s.cfg.pollTicks.toNat + 1) * s.cfg.pollTicks.toNat + 1 - s.elapsed)
          (endTick t) := by
      intro t h1 h2 h3 h4 h5
      refine .inr ⟨_, _, .wait (by simpa using h1) (by simpa [h2] using hop) (by simpa [h3] using hp) ?_,
        .inr ⟨rfl, ?_, ?_⟩⟩
      all_goals simp only [endTick_cfg, endTick_elapsed, h3, h4]; omega
    unfold waitTick
    split
    · rename_i hm
      split
      · exact advanced_idle rfl
      · split
        · exact advanced_idle rfl
        · rename_i ht
          refine hnext _ (by simpa using hb) (by simp) (by simp) rfl ?_
          have hd := Nat.div_mul_cancel (Nat.dvd_of_mod_eq_zero hm)
          have := Nat.div_le_div_right (c := s.cfg.pollTicks.toNat) (Nat.le_of_not_lt ht)
          have := Nat.mul_le_mul_right s.cfg.pollTicks.toNat this
          rw [Nat.add_mul]
          omega
    · rename_i hm
      refine hnext _ hb rfl rfl rfl (lt_of_le_of_ne he ?_)
      intro hc
      exact hm (by rw [hc]; simp)
  | pack hb hop =>
    rw [engineTick_packer hop]
    unfold packTick
    split
    · exact advanced_idle rfl
    · exact .inr ⟨_, _, .pack (by simpa using hb) (by simpa using hop), .inr ⟨rfl, by simp; omega, by simp; omega⟩⟩

theorem Going.readPort {s : State} {r n : Nat} (h : Going s r n) : Going (readPort s) r n := by
  cases h with
  | request o hb hop ho hf =>
    simpa using Going.request (s := Machine.readPort s) o (by simpa using hb) (by simpa using hop) (by simpa using ho)
      (by simpa using hf)
  | hold hb hop ho hf hc =>
    simpa using Going.hold (s := Machine.readPort s) (by simpa using hb) (by simpa using hop) (by simpa using ho)
      (by simpa using hf) (by simpa using hc)
  | wait hb hop hp he =>
    simpa using Going.wait (s := Machine.readPort s) (by simpa using hb) (by simpa using hop) (by simpa using hp)
      (by simpa using he)
  | pack hb hop =>
    simpa using Going.pack (s := Machine.readPort s) (by simpa using hb) (by simpa using hop)

/-- A tick brings an operation in progress nearer its finish; a reset abandons it. -/
theorem advanced_tick {r n : Nat} {s : State} (h : Going s r n) : Advanced r n (tick s) := by
  unfold tick
  split
  · rename_i hd
    refine advanced_idle ?_
    cases hr : s.env.resets with
    | nil => simp [resetDue, hr] at hd
    | cons x rest => simp [resetTick, hr, resetBlock, State.afterReset]
  · exact advanced_engineTick h.readPort

/-- So do k ticks. -/
theorem advanced_runTicks (k : Nat) {r n : Nat} {s : State} (h : Going s r n) :
    (runTicks k s).opState = .idle ∨
      ∃ r' n', Going (runTicks k s) r' n' ∧ (r' < r ∨ r' = r ∧ (1 ≤ n' ∨ k = 0) ∧ n' + k = n) := by
  induction k generalizing s r n with
  | zero => exact .inr ⟨r, n, h, .inr ⟨rfl, .inr rfl, rfl⟩⟩
  | succ k ih =>
    rw [runTicks_busy h.busy]
    rcases advanced_tick h with hi | ⟨r1, n1, h1, hr⟩
    · exact .inl (by rw [runTicks_idle hi]; exact hi)
    · rcases ih h1 with hi | ⟨r', n', h', hr'⟩
      · exact .inl hi
      · exact .inr ⟨r', n', h', by omega⟩

theorem Going.bounds {s : State} {r n : Nat} (h : Going s r n) :
    1 ≤ r ∧ r ≤ 6 ∧ 1 ≤ phaseTicks s ∧ n ≤ phaseTicks s := by
  have h1 : 1 ≤ phaseTicks s := by unfold phaseTicks; omega
  cases h with
  | request o hb hop ho hf =>
    refine ⟨?_, ?_, h1, ?_⟩
    · revert hf; cases s.framer <;> simp [awaits, phasesLeft]
    · cases s.framer <;> simp [phasesLeft]
    · simp only [phaseTicks, ho]; omega
  | hold hb hop ho hf hc =>
    refine ⟨?_, ?_, h1, ?_⟩
    · revert hf; cases s.framer <;> simp [holds, phasesLeft]
    · cases s.framer <;> simp [phasesLeft]
    · unfold phaseTicks
      have : holdTicks s.cfg s.framer ≤ s.cfg.rstHoldTicks.toNat + s.cfg.rstDelayTicks.toNat := by
        unfold holdTicks; cases s.framer <;> simp
      omega
  | wait hb hop hp he =>
    refine ⟨le_refl _, by omega, h1, ?_⟩
    unfold phaseTicks
    have := Nat.div_mul_le_self s.cfg.timeoutTicks.toNat s.cfg.pollTicks.toNat
    rw [Nat.add_mul]
    omega
  | pack hb hop => exact ⟨le_refl _, by omega, h1, by unfold phaseTicks; omega⟩

/-- Every operation in progress comes to its finish (60_exceptions.md R280, R296), or a reset abandons it. -/
theorem Going.complete_idle {s : State} {r n : Nat} (h : Going s r n) : (complete s).opState = .idle := by
  have hk : ∀ k, ∀ s : State, s.opState = .idle ∨ (∃ r n, Going s r n ∧ r ≤ k) → (runPhases k s).opState = .idle := by
    intro k
    induction k with
    | zero =>
      rintro s (hi | ⟨r, n, h, hr⟩)
      · exact hi
      · have := h.bounds; omega
    | succ k ih =>
      rintro s (hi | ⟨r, n, h, hr⟩)
      · exact ih _ (.inl (by rw [runTicks_idle hi]; exact hi))
      · refine ih _ ?_
        have hb := h.bounds
        rcases advanced_runTicks (phaseTicks s) h with hi | ⟨r', n', h', hr'⟩
        · exact .inl hi
        · exact .inr ⟨r', n', h', by omega⟩
  exact hk 6 s (.inr ⟨r, n, h, h.bounds.2.1⟩)

/-- An operation in progress that is at its finish after k ticks ends there. -/
theorem Going.complete_eq {s : State} {r n k : Nat} (h : Going s r n) (hk : (runTicks k s).opState = .idle) :
    complete s = runTicks k s := complete_eq_of_idle hk h.complete_idle

/-! ### What the bodies of the operations start -/

theorem going_issue {st : FramerState} {q : Request} {s : State} (hb : s.opState = .busy) (hop : FramerOp s.curOp)
    (hf : awaits st = true) : ∃ r n, Going (endTick (issue st q s)) r n :=
  ⟨_, _, .request ⟨q, s.env.now, (nextAnswer s.env).extra + 1, nextAnswer s.env⟩ (by simpa using hb)
    (by simpa using hop) rfl (by simpa using hf)⟩

theorem going_startPack {s : State} (hb : s.opState = .busy) (hop : PackerOp s.curOp) :
    ∃ r n, Going (endTick (startPack s)) r n :=
  ⟨_, _, .pack (by simpa using hb) (by simpa using hop)⟩

/-- The acceptance tick of WAIT ends at its finish or in the loop. -/
theorem going_waitTick {s : State} (hb : s.opState = .busy) (hop : fieldOp s.curOp = 4)
    (hp : 1 ≤ s.cfg.pollTicks.toNat) (he : s.elapsed = 0) :
    (endTick (waitTick s)).opState = .idle ∨ ∃ r n, Going (endTick (waitTick s)) r n := by
  have h := advanced_engineTick (Going.wait hb hop hp (by omega))
  rw [engineTick_wait hop] at h
  rcases h with h | ⟨r, n, h, -⟩
  · exact .inl h
  · exact .inr ⟨r, n, h⟩

end Sys2Proof.Machine
end

