-- ==== Sys2Proof/Laws/Exec.lean ====
section
/-! SUPPORT. Everything an operation can do in its acceptance tick, and that it then runs to its finish. -/

namespace Sys2Proof.Machine

/-- What an operation, just accepted in state `a`, can have made of it by the end of its acceptance tick. -/
inductive Begun (a : State) : Instr → State → Prop where
  | cmd (b : Byte) : Begun a (.cmd b) (startFrame a.cfg.dcCmdLevel a)
  | data (b : Byte) : Begun a (.data b) (startFrame a.cfg.dcCmdLevel.other a)
  | datab (len addr : BitVec 14) (hv : databInvalid a.build len addr = false)
      (hw : a.pbuf.firstUnwritten addr.toNat len.toNat = none) :
      Begun a (.datab len addr) (startFrame a.cfg.dcCmdLevel.other a)
  | databInvalid (len addr : BitVec 14) (hv : databInvalid a.build len addr = true) :
      Begun a (.datab len addr) (finish .invalidInput a)
  | wait : Begun a .wait (waitTick (enterWait a))
  | rstp : Begun a .rstp (startPulse a)
  | packFull (w h : BitVec 13) (o : Orientation) (ho : fullOrientation a.cfg w h = some o)
      (hw : firstUnwrittenCell a.src w.toNat 0 h.toNat = none) : Begun a (.packFull w h) (startPack a)
  | packFullInvalid (w h : BitVec 13) (ho : fullOrientation a.cfg w h = none) :
      Begun a (.packFull w h) (finish .invalidInput a)
  | packSub (w h : BitVec 13) (hv : subInvalid a.build w h = false)
      (hw : firstUnwrittenCell a.src w.toNat 0 h.toNat = none) : Begun a (.packSub w h) (startPack a)
  | packSubInvalid (w h : BitVec 13) (hv : subInvalid a.build w h = true) :
      Begun a (.packSub w h) (finish .invalidInput a)
  | fill (b : Byte) : Begun a (.fill b) (startPack a)

/-- Everything behind a next state that an operation answers: the block was ready, the operation began, and it ran from
there. -/
theorem exec_next {i : Instr} {s t : State} (h : exec i s = .next t) :
    Ready s ∧ ∃ s1, Begun (accept (encode i) (readPort s)) i s1 ∧ t = complete (endTick s1) := by
  cases i <;>
    simp only [exec, execCmd, execData, execDatab, execWait, execRstp, execPackFull, execPackSub, execFill] at h <;>
    obtain ⟨hr, s1, hb, ht⟩ := operate_eq_next h <;>
    refine ⟨hr, s1, ?_, ht⟩ <;> clear ht h
  case cmd => rw [← Except.ok.inj hb]; exact .cmd _
  case data => rw [← Except.ok.inj hb]; exact .data _
  case datab len addr =>
    split at hb
    · rw [← Except.ok.inj hb]; exact .databInvalid _ _ ‹_›
    · split at hb
      · cases hb
      · rw [← Except.ok.inj hb]; exact .datab _ _ (Bool.eq_false_iff.2 ‹_›) ‹_›
  case wait => rw [← Except.ok.inj hb]; exact .wait
  case rstp => rw [← Except.ok.inj hb]; exact .rstp
  case packFull w h =>
    split at hb
    · rw [← Except.ok.inj hb]; exact .packFullInvalid _ _ ‹_›
    · unfold packReading at hb
      split at hb
      · cases hb
      · rw [← Except.ok.inj hb]; exact .packFull _ _ _ ‹_› ‹_›
  case packSub w h =>
    split at hb
    · rw [← Except.ok.inj hb]; exact .packSubInvalid _ _ ‹_›
    · unfold packReading at hb
      split at hb
      · cases hb
      · rw [← Except.ok.inj hb]; exact .packSub _ _ (Bool.eq_false_iff.2 ‹_›) ‹_›
  case fill => rw [← Except.ok.inj hb]; exact .fill _

/-- A ready block runs an operation that begins to its finish. -/
theorem exec_of_begun {i : Instr} {s s1 : State} (hr : Ready s) (h : Begun (accept (encode i) (readPort s)) i s1) :
    exec i s = .next (complete (endTick s1)) := by
  cases h <;>
    simp only [exec, execCmd, execData, execDatab, execWait, execRstp, execPackFull, execPackSub, execFill]
  case cmd => exact operate_ready_ok hr rfl
  case data => exact operate_ready_ok hr rfl
  case datab len addr hv hw =>
    refine operate_ready_ok hr ?_
    simp only [hv, hw, Bool.false_eq_true, if_false]
  case databInvalid len addr hv =>
    refine operate_ready_ok hr ?_
    simp only [hv, if_true]
  case wait => exact operate_ready_ok hr rfl
  case rstp => exact operate_ready_ok hr rfl
  case packFull w h o ho hw =>
    refine operate_ready_ok hr ?_
    simp only [ho, packReading, hw]
  case packFullInvalid w h ho =>
    refine operate_ready_ok hr ?_
    simp only [ho]
  case packSub w h hv hw =>
    refine operate_ready_ok hr ?_
    simp only [hv, packReading, hw, Bool.false_eq_true, if_false]
  case packSubInvalid w h hv =>
    refine operate_ready_ok hr ?_
    simp only [hv, if_true]
  case fill => exact operate_ready_ok hr rfl

/-- Register reads do not matter to how an operation begins. -/
theorem Begun.eraseReads {a s1 : State} {i : Instr} (h : Begun a i s1) :
    Begun (eraseReads a) i (Machine.eraseReads s1) := by
  cases h with
  | cmd b => rw [← eraseReads_startFrame]; exact .cmd b
  | data b => rw [← eraseReads_startFrame]; exact .data b
  | datab len addr hv hw => rw [← eraseReads_startFrame]; exact .datab len addr hv hw
  | databInvalid len addr hv => rw [← eraseReads_finish]; exact .databInvalid len addr hv
  | wait => rw [← eraseReads_waitTick, ← eraseReads_enterWait]; exact .wait
  | rstp => rw [← eraseReads_startPulse]; exact .rstp
  | packFull w h o ho hw => rw [← eraseReads_startPack]; exact .packFull w h o ho hw
  | packFullInvalid w h ho => rw [← eraseReads_finish]; exact .packFullInvalid w h ho
  | packSub w h hv hw => rw [← eraseReads_startPack]; exact .packSub w h hv hw
  | packSubInvalid w h hv => rw [← eraseReads_finish]; exact .packSubInvalid w h hv
  | fill b => rw [← eraseReads_startPack]; exact .fill b

/-- An operation that began is finished already, or in progress. -/
theorem Begun.going {a s1 : State} {i : Instr} (h : Begun a i s1) (hb : a.opState = .busy) (hw : a.curOp = encode i)
    (hp : 1 ≤ a.cfg.pollTicks.toNat) :
    (endTick s1).opState = .idle ∨ ∃ r n, Going (endTick s1) r n := by
  cases h with
  | cmd b => exact .inr (going_issue hb (by simp [hw, FramerOp]) rfl)
  | data b => exact .inr (going_issue hb (by simp [hw, FramerOp]) rfl)
  | datab len addr => exact .inr (going_issue hb (by simp [hw, FramerOp]) rfl)
  | rstp => exact .inr (going_issue (by simpa using hb) (by simp [hw, FramerOp]) rfl)
  | databInvalid => exact .inl rfl
  | packFullInvalid => exact .inl rfl
  | packSubInvalid => exact .inl rfl
  | wait => exact going_waitTick (by simpa using hb) (by simp [hw]) (by simpa using hp) (by simp)
  | packFull w h => exact .inr (going_startPack hb (by simp [hw, PackerOp]))
  | packSub w h => exact .inr (going_startPack hb (by simp [hw, PackerOp]))
  | fill b => exact .inr (going_startPack hb (by simp [hw, PackerOp]))

/-- Every operation that answers a next state has come to its finish. -/
theorem exec_idle {i : Instr} {s t : State} (h : exec i s = .next t) : t.opState = .idle := by
  obtain ⟨hr, s1, hb, ht⟩ := exec_next h
  rw [ht]
  have hl := (legalCfg_iff _ _).1 hr.1
  rcases hb.going (by simp) (by simp) (by simpa using hl.2.2.1) with hi | ⟨r, n, hg⟩
  · rw [Sys2Proof.Machine.complete_idle hi]; exact hi
  · exact hg.complete_idle

/-- A property that holds after the acceptance tick and that every tick of a busy block keeps holds at the finish. -/
theorem exec_keeps {P : State → Prop} {i : Instr} {s t : State} (h : exec i s = .next t)
    (hb : ∀ s1, Begun (accept (encode i) (readPort s)) i s1 → P (endTick s1))
    (ht : ∀ u, u.opState = .busy → P u → P (tick u)) : P t := by
  obtain ⟨-, s1, hs, he⟩ := exec_next h
  rw [he]
  exact complete_keeps ht _ (hb s1 hs)

end Sys2Proof.Machine
end

