-- ==== Sys2Proof/Laws/PerInstr.lean ====
section
/-! SUPPORT. Per operation: its word carries the bits its row of spec/opcode_table.json fixes. -/

namespace Sys2Proof.Laws.Encoding

/-- The word of an operation, under the `mask` of its row, is the `match` of its row (30_encoding.md R92, R95). -/
def Statement (i : Instr) : Prop := encode i &&& tableMask i = tableMatch i

theorem cmd (b : Byte) : Statement (.cmd b) := by revert b; unfold Statement; decide

theorem data (b : Byte) : Statement (.data b) := by revert b; unfold Statement; decide

theorem datab (len addr : BitVec 14) : Statement (.datab len addr) := by
  apply BitVec.eq_of_getLsbD_eq
  intro k hk
  simp only [encode, tableMask, tableMatch, BitVec.getLsbD_and, BitVec.getLsbD_append]
  interval_cases k <;> simp

theorem wait : Statement .wait := by unfold Statement; decide

theorem rstp : Statement .rstp := by unfold Statement; decide

theorem packFull (w h : BitVec 13) : Statement (.packFull w h) := by
  apply BitVec.eq_of_getLsbD_eq
  intro k hk
  simp only [encode, tableMask, tableMatch, BitVec.getLsbD_and, BitVec.getLsbD_append]
  interval_cases k <;> simp

theorem packSub (w h : BitVec 13) : Statement (.packSub w h) := by
  apply BitVec.eq_of_getLsbD_eq
  intro k hk
  simp only [encode, tableMask, tableMatch, BitVec.getLsbD_and, BitVec.getLsbD_append]
  interval_cases k <;> simp

theorem fill (b : Byte) : Statement (.fill b) := by revert b; unfold Statement; decide

end Sys2Proof.Laws.Encoding
end

