-- ==== Sys2Proof/Laws/Port.lean ====
section
/-! SUPPORT. Everything a tick of the idle block and a step can do, said once. -/

namespace Sys2Proof.Machine

/-- What the memory port can do to a state in one tick: to PBUF or to SRC at most one write in range, to the port its own
bookkeeping, to everything else nothing (20_memory.md R64, R65, R69). -/
structure PortMove (s s1 : State) : Prop where
  frame : ∃ txns memReplies,
    s1 = { s with pbuf := s1.pbuf, src := s1.src, env := { s.env with txns := txns, memReplies := memReplies } }
  pbuf : s1.pbuf = s.pbuf ∨ ∃ a v, a < s.build.pbufSize.toNat ∧ s1.pbuf = s.pbuf.write a v
  src : s1.src = s.src ∨
    ∃ x y d, x < s.build.srcWMax.toNat ∧ y < s.build.srcHMax.toNat ∧ s1.src = s.src.write (srcKey x y) d

theorem performTxn_move {x : MemTxn} {s s1 : State} (h : performTxn x s = .ok s1) : PortMove s s1 := by
  cases x with
  | pbWr a v =>
    by_cases hr : a < s.build.pbufSize.toNat
    · simp only [performTxn, pbufInRange, hr, decide_true, if_true, Except.ok.injEq] at h
      subst h
      exact ⟨⟨_, _, rfl⟩, .inr ⟨a, v, hr, rfl⟩, .inl rfl⟩
    · simp only [performTxn, pbufInRange, hr, decide_false, Bool.false_eq_true, if_false, Except.ok.injEq] at h
      subst h
      exact ⟨⟨_, _, rfl⟩, .inl rfl, .inl rfl⟩
  | pbRd a =>
    by_cases hr : a < s.build.pbufSize.toNat
    · simp only [performTxn, pbufInRange, hr, decide_true, if_true] at h
      cases hv : s.pbuf.read a with
      | none => simp [hv] at h
      | some v =>
        simp only [hv, Except.ok.injEq] at h
        subst h
        exact ⟨⟨_, _, rfl⟩, .inl rfl, .inl rfl⟩
    · simp only [performTxn, pbufInRange, hr, decide_false, Bool.false_eq_true, if_false, Except.ok.injEq] at h
      subst h
      exact ⟨⟨_, _, rfl⟩, .inl rfl, .inl rfl⟩
  | srcWr x y d =>
    by_cases hr : x < s.build.srcWMax.toNat ∧ y < s.build.srcHMax.toNat
    · simp only [performTxn, writeSrc, srcInRange, hr, decide_true, Bool.and_self, if_true, Except.ok.injEq] at h
      subst h
      exact ⟨⟨_, _, rfl⟩, .inl rfl, .inr ⟨x, y, d, hr.1, hr.2, rfl⟩⟩
    · have hf : srcInRange s.build x y = false := by simp [srcInRange]; omega
      simp only [performTxn, writeSrc, hf, Bool.false_eq_true, if_false, Except.ok.injEq] at h
      subst h
      exact ⟨⟨_, _, rfl⟩, .inl rfl, .inl rfl⟩
  | srcWrRgb x y r g b =>
    by_cases hr : x < s.build.srcWMax.toNat ∧ y < s.build.srcHMax.toNat
    · simp only [performTxn, writeSrc, srcInRange, hr, decide_true, Bool.and_self, if_true, Except.ok.injEq] at h
      subst h
      exact ⟨⟨_, _, rfl⟩, .inl rfl, .inr ⟨x, y, _, hr.1, hr.2, rfl⟩⟩
    · have hf : srcInRange s.build x y = false := by simp [srcInRange]; omega
      simp only [performTxn, writeSrc, hf, Bool.false_eq_true, if_false, Except.ok.injEq] at h
      subst h
      exact ⟨⟨_, _, rfl⟩, .inl rfl, .inl rfl⟩
  | srcRd x y =>
    cases hf : srcInRange s.build x y with
    | false =>
      simp only [performTxn, hf, Bool.false_eq_true, if_false, Except.ok.injEq] at h
      subst h
      exact ⟨⟨_, _, rfl⟩, .inl rfl, .inl rfl⟩
    | true =>
      simp only [performTxn, hf, if_true] at h
      cases hv : s.src.read (srcKey x y) with
      | none => simp [hv] at h
      | some v =>
        simp only [hv, Except.ok.injEq] at h
        subst h
        exact ⟨⟨_, _, rfl⟩, .inl rfl, .inl rfl⟩

/-- Every fault of the memory port is an UNINIT that sets FAULTED (20_memory.md R68). -/
theorem performTxn_fault {x : MemTxn} {s : State} {f : Fault} (h : performTxn x s = .error f) : f.left.faulted = true := by
  unfold performTxn at h
  split at h
  · split at h <;> cases h
  · split at h
    · split at h
      · cases h
      · rw [← Except.error.inj h]; rfl
    · cases h
  · cases h
  · cases h
  · split at h
    · split at h
      · cases h
      · rw [← Except.error.inj h]; rfl
    · cases h

theorem memPort_move {s s1 : State} (h : memPort s = .ok s1) : PortMove s s1 := by
  have hsame : PortMove s s := ⟨⟨s.env.txns, s.env.memReplies, rfl⟩, .inl rfl, .inl rfl⟩
  unfold memPort at h
  split at h
  · rw [← Except.ok.inj h]; exact hsame
  · split at h
    · obtain ⟨⟨a, b, hf⟩, hp, hs⟩ := performTxn_move h
      exact ⟨⟨a, b, hf⟩, hp, hs⟩
    · rw [← Except.ok.inj h]; exact hsame

theorem memPort_fault {s : State} {f : Fault} (h : memPort s = .error f) : f.left.faulted = true := by
  unfold memPort at h
  split at h
  · cases h
  · split at h
    · exact performTxn_fault h
    · cases h

/-! ### The step -/

/-- The ways a step can answer a next state. -/
inductive Stepped (s : State) : State → Prop where
  /-- A reset is asserted. -/
  | reset (hd : resetDue s = true) : Stepped s (resetTick s)
  /-- A busy block runs its operation to the finish. -/
  | resumed (hd : resetDue s = false) (ho : s.opState = .busy) (hu : pendingUninit (readPort s) = none) : Stepped s (complete s)
  /-- A tick without an operation. -/
  | idle (hd : resetDue s = false) (ho : s.opState = .idle) (hw : presentedWord s = none) (s1 : State)
      (hm : memPort (readPort s) = .ok s1) : Stepped s (endTick s1)
  /-- An operation. -/
  | op (hd : resetDue s = false) (ho : s.opState = .idle) (w : Word) (i : Instr) (hw : presentedWord s = some w)
      (hi : decode w = some i) (t : State) (ht : exec i (takeWord s) = .next t) : Stepped s t
  /-- An illegal word. -/
  | illegal (hd : resetDue s = false) (ho : s.opState = .idle) (w : Word) (hw : presentedWord s = some w)
      (hi : decode w = none) : Stepped s (endTick (finish .illegalOp (accept w (readPort (takeWord s)))))

/-- Everything behind a next state that a step answers. -/
theorem step_next {s t : State} (h : step s = .next t) : legalCfg s.build s.cfg = true ∧ Stepped s t := by
  cases hl : legalCfg s.build s.cfg with
  | false => simp only [step, hl, Bool.false_eq_true, if_false, reduceCtorEq] at h
  | true =>
    refine ⟨rfl, ?_⟩
    cases hd : resetDue s with
    | true =>
      simp only [step, hl, hd, if_true, Host.Outcome.next.injEq] at h
      rw [← h]; exact .reset hd
    | false =>
      cases ho : s.opState with
      | busy =>
        simp only [step, hl, hd, ho, resume, Bool.false_eq_true, if_false, if_true] at h
        cases hu : pendingUninit (readPort s) with
        | some f => simp only [hu, reduceCtorEq] at h
        | none => simp only [hu, Host.Outcome.next.injEq] at h; rw [← h]; exact .resumed hd ho hu
      | idle =>
        simp only [step, hl, hd, ho, Bool.false_eq_true, if_false, if_true] at h
        cases hw : presentedWord s with
        | none =>
          simp only [hw, idleTick] at h
          cases hm : memPort (readPort s) with
          | error f => simp only [hm, reduceCtorEq] at h
          | ok s1 => simp only [hm, Host.Outcome.next.injEq] at h; rw [← h]; exact .idle hd ho hw s1 hm
        | some w =>
          simp only [hw] at h
          cases hi : decode w with
          | some i => simp only [hi] at h; exact .op hd ho w i hw hi t h
          | none =>
            simp only [hi, execIllegal] at h
            obtain ⟨-, s1, hb, ht⟩ := operate_eq_next h
            rw [← Except.ok.inj hb, complete_idle (by simp)] at ht
            rw [ht]; exact .illegal hd ho w hw hi

/-- The ways a step can answer a fault: the memory port, an operation or the operation in progress meets an unwritten
cell. -/
inductive SteppedFault (s : State) : Fault → Prop where
  /-- The operation in progress reads an unwritten cell. -/
  | resumed (ho : s.opState = .busy) (f : Fault) (hu : pendingUninit (readPort s) = some f) : SteppedFault s f
  /-- The memory port reads an unwritten cell. -/
  | idle (ho : s.opState = .idle) (f : Fault) (hm : memPort (readPort s) = .error f) : SteppedFault s f
  /-- The operation accepted reads an unwritten cell. -/
  | op (ho : s.opState = .idle) (w : Word) (i : Instr) (hw : presentedWord s = some w) (hi : decode w = some i)
      (f : Fault) (hf : exec i (takeWord s) = .fault f) : SteppedFault s f

/-- Everything behind a fault that a step answers. -/
theorem step_fault {s : State} {f : Fault} (h : step s = .fault f) :
    legalCfg s.build s.cfg = true ∧ resetDue s = false ∧ SteppedFault s f := by
  cases hl : legalCfg s.build s.cfg with
  | false => simp only [step, hl, Bool.false_eq_true, if_false, reduceCtorEq] at h
  | true =>
    cases hd : resetDue s with
    | true => simp only [step, hl, hd, if_true, reduceCtorEq] at h
    | false =>
      refine ⟨rfl, rfl, ?_⟩
      cases ho : s.opState with
      | busy =>
        simp only [step, hl, hd, ho, resume, Bool.false_eq_true, if_false, if_true] at h
        cases hu : pendingUninit (readPort s) with
        | some f' => simp only [hu, Host.Outcome.fault.injEq] at h; rw [← h]; exact .resumed ho f' hu
        | none => simp only [hu, reduceCtorEq] at h
      | idle =>
        simp only [step, hl, hd, ho, Bool.false_eq_true, if_false, if_true] at h
        cases hw : presentedWord s with
        | none =>
          simp only [hw, idleTick] at h
          cases hm : memPort (readPort s) with
          | error f' => simp only [hm, Host.Outcome.fault.injEq] at h; rw [← h]; exact .idle ho f' hm
          | ok s1 => simp only [hm, reduceCtorEq] at h
        | some w =>
          simp only [hw] at h
          cases hi : decode w with
          | some i => simp only [hi] at h; exact .op ho w i hw hi f h
          | none =>
            simp only [hi, execIllegal] at h
            exact absurd (operate_eq_fault h).2 (fun e => nomatch e)

end Sys2Proof.Machine
end

