-- ==== Sys2Proof/Laws/Timeline.lean ====
section
/-! SUPPORT. The timeline of an operation, phase by phase, in a run that no reset disturbs and in which the host reads no
register (`Laws/Reads.lean` says why reads do not matter): a request from its issue to its return, a hold, the ticks
between two samples of WAIT, and the packer. -/

namespace Sys2Proof.Machine

/-- The host asserts no reset and reads no register. -/
structure Alone (s : State) : Prop where
  resets : s.env.resets = []
  reads : s.env.regReads = []

theorem Alone.tick {s : State} (h : Alone s) : tick s = endTick (engineTick s) := by
  rw [tick_eq h.resets, readPort_none h.reads]

/-! ### A request -/

/-- The state in the tick a request returns, its reply taken: `st` is the framer state it was issued into. -/
def returned (st : FramerState) (q : Request) (s : State) : State :=
  takeReply { req := q, issued := s.env.now, left := 1, answer := nextAnswer s.env }
    { s with framer := st, env := { takeAnswer s.env with now := s.env.now + latency (nextAnswer s.env) } }

/-- What the framer does in that tick. -/
def replied (st : FramerState) (q : Request) (s : State) : State :=
  if (nextAnswer s.env).ok then framerNext (returned st q s) else finish .transportFailure (returned st q s)

/-- The state in tick `t`, awaiting the request `o`. -/
def awaiting (t : Nat) (o : Outstanding) (s : State) : State :=
  { s with env := { s.env with now := t, outstanding := some o } }

/-- The ticks before a request returns only let time pass. -/
theorem runTicks_awaiting (n t : Nat) {o : Outstanding} {s : State} (ha : Alone s) (hb : s.opState = .busy)
    (hop : FramerOp s.curOp) (hl : o.left = n + 1) :
    runTicks n (awaiting t o s) = awaiting (t + n) { o with left := 1 } s := by
  induction n generalizing t o with
  | zero => cases o; simp only [Nat.zero_add] at hl; rw [runTicks, hl]; rfl
  | succ n ih =>
    have ht : tick (awaiting t o s) = awaiting (t + 1) { o with left := o.left - 1 } s := by
      rw [Alone.tick (s := awaiting t o s) ⟨ha.resets, ha.reads⟩, engineTick_framer (s := awaiting t o s) hop]
      simp only [awaiting, framerTick, show ¬ o.left ≤ 1 by omega, if_false, endTick]
    rw [runTicks_busy (s := awaiting t o s) hb, ht, ih (t + 1) (o := { o with left := o.left - 1 }) (by simp [hl])]
    rw [show t + 1 + n = t + (n + 1) by omega]

/-- A request from its issue to the tick it returns. -/
theorem runTicks_issue {st : FramerState} {q : Request} {s : State} (ha : Alone s) (hb : s.opState = .busy)
    (hop : FramerOp s.curOp) :
    runTicks (latency (nextAnswer s.env)) (endTick (issue st q s)) = endTick (replied st q s) := by
  have h0 : endTick (issue st q s) =
      awaiting (s.env.now + 1) ⟨q, s.env.now, (nextAnswer s.env).extra + 1, nextAnswer s.env⟩
        { s with framer := st, env := takeAnswer s.env } := by
    cases h : s.env.answers <;> simp [endTick, issue, awaiting, takeAnswer, h]
  have ha' : Alone { s with framer := st, env := takeAnswer s.env } :=
    ⟨by have := (issue_resets st q s).trans ha.resets; exact this,
     by have := (issue_regReads st q s).trans ha.reads; exact this⟩
  obtain ⟨u, hu⟩ : ∃ u, u = awaiting (s.env.now + 1 + (nextAnswer s.env).extra) ⟨q, s.env.now, 1, nextAnswer s.env⟩
    { s with framer := st, env := takeAnswer s.env } := ⟨_, rfl⟩
  have hub : u.opState = .busy := by rw [hu]; exact hb
  have hua : Alone u := by rw [hu]; exact ⟨ha'.resets, ha'.reads⟩
  have huo : FramerOp u.curOp := by rw [hu]; exact hop
  rw [h0, latency, runTicks_add, runTicks_awaiting (nextAnswer s.env).extra _ ha' hb hop rfl, ← hu, runTicks_busy hub,
    runTicks, hua.tick, engineTick_framer huo]
  have hr : takeReply ⟨q, s.env.now, 1, nextAnswer s.env⟩ u = returned st q s := by
    have hn : s.env.now + 1 + (nextAnswer s.env).extra = s.env.now + latency (nextAnswer s.env) := by
      unfold latency; omega
    rw [hu, hn]
    cases q with
    | transmit bs => rfl
    | setPin p l => cases p <;> rfl
  have ho : u.env.outstanding = some ⟨q, s.env.now, 1, nextAnswer s.env⟩ := by rw [hu]; rfl
  simp only [framerTick, ho, le_refl, if_true, replyArrives, hr]
  rfl

/-! ### What a returned request makes of the state -/

section
variable (st : FramerState) (q : Request) (s : State)
@[simp] theorem returned_build : (returned st q s).build = s.build := by simp [returned]
@[simp] theorem returned_cfg : (returned st q s).cfg = s.cfg := by simp [returned]
@[simp] theorem returned_opState : (returned st q s).opState = s.opState := by simp [returned]
@[simp] theorem returned_curOp : (returned st q s).curOp = s.curOp := by simp [returned]
@[simp] theorem returned_result : (returned st q s).result = s.result := by simp [returned]
@[simp] theorem returned_lastOp : (returned st q s).lastOp = s.lastOp := by simp [returned]
@[simp] theorem returned_framer : (returned st q s).framer = st := by simp [returned]
@[simp] theorem returned_fcnt : (returned st q s).fcnt = s.fcnt := by simp [returned]
@[simp] theorem returned_sync : (returned st q s).sync = s.sync := by simp [returned]
@[simp] theorem returned_elapsed : (returned st q s).elapsed = s.elapsed := by simp [returned]
@[simp] theorem returned_samples : (returned st q s).samples = s.samples := by simp [returned]
@[simp] theorem returned_notify : (returned st q s).notify = s.notify := by simp [returned]
@[simp] theorem returned_packer : (returned st q s).packer = s.packer := by simp [returned]
@[simp] theorem returned_pbuf : (returned st q s).pbuf = s.pbuf := by simp [returned]
@[simp] theorem returned_src : (returned st q s).src = s.src := by simp [returned]
@[simp] theorem returned_faulted : (returned st q s).faulted = s.faulted := by simp [returned]
@[simp] theorem returned_now : (returned st q s).env.now = s.env.now + latency (nextAnswer s.env) := by simp [returned]
@[simp] theorem returned_outstanding : (returned st q s).env.outstanding = none := rfl
@[simp] theorem returned_ops : (returned st q s).env.ops = s.env.ops := by
  cases h : s.env.answers <;> simp [returned, takeAnswer, h]
@[simp] theorem returned_txns : (returned st q s).env.txns = s.env.txns := by
  cases h : s.env.answers <;> simp [returned, takeAnswer, h]
@[simp] theorem returned_regReads : (returned st q s).env.regReads = s.env.regReads := by
  cases h : s.env.answers <;> simp [returned, takeAnswer, h]
@[simp] theorem returned_resets : (returned st q s).env.resets = s.env.resets := by
  cases h : s.env.answers <;> simp [returned, takeAnswer, h]
@[simp] theorem returned_memReplies : (returned st q s).env.memReplies = s.env.memReplies := by
  cases h : s.env.answers <;> simp [returned, takeAnswer, h]
@[simp] theorem returned_answers : (returned st q s).env.answers = s.env.answers.tail := by
  cases h : s.env.answers <;> simp [returned, takeAnswer, h]
@[simp] theorem returned_trace : (returned st q s).env.trace = s.env.trace ++
    [⟨s.env.now, .request q (replyOf (nextAnswer s.env)) (s.env.now + latency (nextAnswer s.env))⟩] := by
  cases h : s.env.answers <;> cases q <;> simp [returned, takeAnswer, h, takeReply, logAt]
@[simp] theorem returned_reached : (returned st q s).env.reached =
    s.env.reached ++ deliveredBytes q (replyOf (nextAnswer s.env)) (nextAnswer s.env) := by
  cases h : s.env.answers <;> cases q <;> simp [returned, takeAnswer, h, takeReply, logAt]
end

/-- A returned request sets the shadow of the pin it sets, and no other (10_state.md R31). -/
theorem returned_shadows (st : FramerState) (q : Request) (s : State) :
    (returned st q s).dcSh =
        (match q with
         | .setPin .dc l => if (nextAnswer s.env).ok then shadowOf l else .unknown
         | _ => s.dcSh) ∧
      (returned st q s).csSh =
        (match q with
         | .setPin .cs l => if (nextAnswer s.env).ok then shadowOf l else .unknown
         | _ => s.csSh) ∧
      (returned st q s).rstSh =
        (match q with
         | .setPin .rst l => if (nextAnswer s.env).ok then shadowOf l else .unknown
         | _ => s.rstSh) := by
  cases q with
  | transmit bs => exact ⟨rfl, rfl, rfl⟩
  | setPin p l => cases p <;> exact ⟨rfl, rfl, rfl⟩

theorem Alone.returned {s : State} (h : Alone s) (st : FramerState) (q : Request) : Alone (returned st q s) :=
  ⟨by simpa using h.resets, by simpa using h.reads⟩

/-! ### A hold -/

/-- The state in the last tick of the hold `st`. -/
def held (st : FramerState) (s : State) : State :=
  { s with
    framer := st, fcnt := BitVec.ofNat 32 (holdTicks s.cfg st),
    env := { s.env with now := s.env.now + holdTicks s.cfg st } }

theorem holdTicks_lt (c : Cfg) (st : FramerState) : holdTicks c st < 2 ^ 32 := by
  unfold holdTicks
  split <;> first | exact BitVec.isLt _ | omega

/-- The state of a hold whose count is `k`, in tick `t`. -/
def counting (st : FramerState) (k t : Nat) (s : State) : State :=
  { s with framer := st, fcnt := BitVec.ofNat 32 k, env := { s.env with now := t } }

/-- A tick of a hold counts. -/
theorem tick_counting (st : FramerState) (k t : Nat) {s : State} (ha : Alone s) (hop : FramerOp s.curOp)
    (ho : s.env.outstanding = none) (hf : holds st = true) (hk : k + 1 ≤ holdTicks s.cfg st) :
    tick (counting st k t s) =
      endTick (if holdTicks s.cfg st ≤ k + 1 then holdDone (counting st (k + 1) t s) else counting st (k + 1) t s) := by
  have hlt := holdTicks_lt s.cfg st
  have hinc : BitVec.ofNat 32 k + 1 = BitVec.ofNat 32 (k + 1) := by
    apply BitVec.eq_of_toNat_eq; simp
  have hn : (BitVec.ofNat 32 (k + 1)).toNat = k + 1 := by simp; omega
  have h1 : framerTick (counting st k t s) = holdTick (counting st k t s) := by
    unfold framerTick
    rw [show (counting st k t s).env.outstanding = none from ho]
  have hf' : holds (counting st k t s).framer = true := hf
  have h2 : ({ counting st k t s with fcnt := (counting st k t s).fcnt + 1 } : State) = counting st (k + 1) t s := by
    simp only [counting, hinc]
  have h3 : ((counting st k t s).fcnt + 1).toNat = k + 1 := by simp only [counting, hinc, hn]
  rw [Alone.tick (s := counting st k t s) ⟨ha.resets, ha.reads⟩, engineTick_framer (s := counting st k t s) hop, h1,
    holdTick_eq hf', h2, h3]
  rfl

/-- The ticks of a hold up to its last one. -/
theorem runTicks_counting (st : FramerState) (d k t : Nat) {s : State} (ha : Alone s) (hb : s.opState = .busy)
    (hop : FramerOp s.curOp) (ho : s.env.outstanding = none) (hf : holds st = true)
    (hd : k + d + 1 = holdTicks s.cfg st) :
    runTicks (d + 1) (counting st k t s) = endTick (holdDone (counting st (k + d + 1) (t + d) s)) := by
  induction d generalizing k t with
  | zero =>
    rw [runTicks_busy (s := counting st k t s) hb, runTicks, tick_counting st k t ha hop ho hf (by omega),
      if_pos (by omega)]
    simp
  | succ d ih =>
    have hstep : endTick (counting st (k + 1) t s) = counting st (k + 1) (t + 1) s := rfl
    rw [runTicks_busy (s := counting st k t s) hb, tick_counting st k t ha hop ho hf (by omega), if_neg (by omega),
      hstep, ih (k + 1) (t + 1) (by omega), show k + 1 + d + 1 = k + (d + 1) + 1 by omega,
      show t + 1 + d = t + (d + 1) by omega]

/-- A hold, from the tick the request before it returned to its last tick (40_framer.md R142). -/
theorem runTicks_startHold (st : FramerState) {s : State} (ha : Alone s) (hb : s.opState = .busy)
    (hop : FramerOp s.curOp) (ho : s.env.outstanding = none) (hf : holds st = true) :
    runTicks (holdTicks s.cfg st) (endTick (startHold st s)) = endTick (holdDone (held st s)) := by
  cases hh : holdTicks s.cfg st with
  | zero =>
    simp only [startHold, hh, if_true, runTicks, held]
    rfl
  | succ d =>
    have h0 : endTick (startHold st s) = counting st 0 (s.env.now + 1) s := by
      simp [startHold, hh, counting, endTick]
    rw [h0, runTicks_counting st d 0 _ ha hb hop ho hf (by omega), held, hh, counting, Nat.zero_add,
      show s.env.now + 1 + d = s.env.now + (d + 1) by omega]

/-! ### The packer -/

/-- The packer, from its acceptance tick to its finish (42_packer.md R191). -/
theorem runTicks_startPack {s : State} (ha : Alone s) (hb : s.opState = .busy) (hop : PackerOp s.curOp) :
    runTicks (nextPackTime s.env + 1) (endTick (startPack s)) =
      endTick (finish .ok
        { s with
          packer := .pRun, pbuf := s.pbuf.setLow (fullLen s.cfg) (packerByte s.cfg s.curOp s.src),
          env := { takePackTime s.env with packLeft := 0, now := s.env.now + (nextPackTime s.env + 1) } }) := by
  have h : ∀ n (u : State), Alone u → u.opState = .busy → PackerOp u.curOp → u.env.packLeft = n + 1 →
      runTicks (n + 1) u =
        endTick (finish .ok
          { u with
            pbuf := u.pbuf.setLow (fullLen u.cfg) (packerByte u.cfg u.curOp u.src),
            env := { u.env with packLeft := 0, now := u.env.now + n } }) := by
    intro n
    induction n with
    | zero =>
      intro u ha hb hop hl
      rw [runTicks_busy hb, runTicks, ha.tick, engineTick_packer hop, packTick, if_pos (by omega)]
      rfl
    | succ n ih =>
      intro u ha hb hop hl
      have ht : tick u = { u with env := { u.env with packLeft := n + 1, now := u.env.now + 1 } } := by
        rw [ha.tick, engineTick_packer hop, packTick, if_neg (by omega), hl]
        rfl
      rw [runTicks_busy hb, ht]
      refine (ih { u with env := { u.env with packLeft := n + 1, now := u.env.now + 1 } } ⟨ha.resets, ha.reads⟩ hb hop
        rfl).trans ?_
      simp only [show u.env.now + 1 + n = u.env.now + (n + 1) by omega]
  have he : (takePackTime s.env).now = s.env.now := by cases hp : s.env.packTimes <;> simp [takePackTime, hp]
  refine (h (nextPackTime s.env) (endTick (startPack s)) ⟨by simpa using ha.resets, by simpa using ha.reads⟩
    (by simpa using hb) (by simpa using hop) rfl).trans ?_
  simp only [endTick, startPack, he, show s.env.now + 1 + nextPackTime s.env = s.env.now + (nextPackTime s.env + 1) by omega]


/-! ### WAIT -/

/-- The state `d` ticks of WAIT's loop later, without a sample. -/
def passed (d : Nat) (s : State) : State :=
  { s with elapsed := s.elapsed + d, env := { s.env with now := s.env.now + d } }

/-- The ticks between two samples only let time pass. -/
theorem runTicks_passed (d : Nat) {s : State} (ha : Alone s) (hb : s.opState = .busy) (hop : fieldOp s.curOp = 4)
    (hd : ∀ j, j < d → (s.elapsed + j) % s.cfg.pollTicks.toNat ≠ 0) : runTicks d s = passed d s := by
  induction d generalizing s with
  | zero => rfl
  | succ d ih =>
    have h0 := hd 0 (by omega)
    have ht : tick s = passed 1 s := by
      rw [ha.tick, engineTick_wait hop, waitTick, if_neg (by simpa using h0)]
      rfl
    rw [runTicks_busy hb, ht, ih (s := passed 1 s) ⟨ha.resets, ha.reads⟩ hb hop]
    · simp only [passed, show s.elapsed + 1 + d = s.elapsed + (d + 1) by omega,
        show s.env.now + 1 + d = s.env.now + (d + 1) by omega]
    · intro j hj
      have := hd (j + 1) (by omega)
      simpa [passed, Nat.add_assoc, Nat.add_comm 1 j] using this

/-- The state after `k` busy samples of level `l`, one poll interval apart, the rest of the fixed samples being `rest`. -/
def sampled (k : Nat) (l : Level) (rest : List Level) (s : State) : State :=
  { s with
    elapsed := s.elapsed + k * s.cfg.pollTicks.toNat, samples := s.samples + BitVec.ofNat 32 k,
    env := { s.env with
      now := s.env.now + k * s.cfg.pollTicks.toNat, busyLevels := rest,
      trace := s.env.trace ++ samplesOf s.env.now s.cfg.pollTicks.toNat k l } }

theorem samplesOf_succ (t p k : Nat) (l : Level) :
    samplesOf t p (k + 1) l = ⟨t, .readPin l⟩ :: samplesOf (t + p) p k l := by
  simp only [samplesOf, List.range_succ_eq_map, List.map_cons, List.map_map]
  refine congrArg₂ _ (by simp) (List.map_congr_left fun j _ => ?_)
  simp only [Function.comp, Nat.succ_eq_add_one, Nat.add_mul]
  congr 1
  omega

/-- A busy sample that does not exit, and the ticks to the next sample. -/
theorem runTicks_sample {s : State} {rest : List Level} (ha : Alone s) (hb : s.opState = .busy)
    (hop : fieldOp s.curOp = 4) (hp : 1 ≤ s.cfg.pollTicks.toNat) (he : s.elapsed % s.cfg.pollTicks.toNat = 0)
    (hl : s.env.busyLevels = s.cfg.busyActiveLevel :: rest) (ht : s.elapsed ≤ s.cfg.timeoutTicks.toNat) :
    runTicks s.cfg.pollTicks.toNat s = sampled 1 s.cfg.busyActiveLevel rest s := by
  obtain ⟨P, hP⟩ : ∃ P, s.cfg.pollTicks.toNat = P + 1 := ⟨_, (Nat.succ_pred_eq_of_pos hp).symm⟩
  have h1 : tick s = passed 1 (sampleBusy s) := by
    rw [ha.tick, engineTick_wait hop, waitTick, if_pos he, if_neg (by simp [nextBusy, hl]), if_neg (by omega)]
    simp [passed, endTick]
  have h2 : ∀ j, j < P → ((passed 1 (sampleBusy s)).elapsed + j) % (passed 1 (sampleBusy s)).cfg.pollTicks.toNat ≠ 0 := by
    intro j hj
    have h3 : (passed 1 (sampleBusy s)).elapsed + j = s.elapsed + (1 + j) := by simp [passed, Nat.add_assoc]
    have h4 : (passed 1 (sampleBusy s)).cfg.pollTicks.toNat = s.cfg.pollTicks.toNat := by simp [passed]
    rw [h3, h4, Nat.add_mod, he, Nat.zero_add, Nat.mod_mod, Nat.mod_eq_of_lt (by omega)]
    omega
  rw [hP, runTicks_busy hb, h1, runTicks_passed P ⟨by simpa [passed] using ha.resets, by simpa [passed] using ha.reads⟩
    (by simpa [passed] using hb) (by simpa [passed] using hop) h2]
  simp only [passed, sampleBusy, log, logAt, takeBusy, nextBusy, hl, sampled, hP, Nat.one_mul, samplesOf,
    List.range_one, List.map_cons, List.map_nil, Nat.zero_mul, Nat.add_zero,
    show s.elapsed + 1 + P = s.elapsed + (P + 1) by omega, show s.env.now + 1 + P = s.env.now + (P + 1) by omega]
  rfl

/-- Busy samples that do not exit, up to the tick of the sample after them (41_busy_sync.md R160). -/
theorem runTicks_sampled (k : Nat) {s : State} {rest : List Level} (ha : Alone s) (hb : s.opState = .busy)
    (hop : fieldOp s.curOp = 4) (hp : 1 ≤ s.cfg.pollTicks.toNat) (he : s.elapsed % s.cfg.pollTicks.toNat = 0)
    (hl : s.env.busyLevels = List.replicate k s.cfg.busyActiveLevel ++ rest)
    (ht : k = 0 ∨ s.elapsed + (k - 1) * s.cfg.pollTicks.toNat ≤ s.cfg.timeoutTicks.toNat) :
    runTicks (k * s.cfg.pollTicks.toNat) s = sampled k s.cfg.busyActiveLevel rest s := by
  induction k generalizing s with
  | zero =>
    simp only [List.replicate_zero, List.nil_append] at hl
    simp [runTicks, sampled, samplesOf, ← hl]
  | succ k ih =>
    have hte : s.elapsed ≤ s.cfg.timeoutTicks.toNat := by
      rcases ht with h | h
      · omega
      · exact le_trans (Nat.le_add_right _ _) h
    rw [List.replicate_succ, List.cons_append] at hl
    have ht' : k = 0 ∨ s.elapsed + 1 * s.cfg.pollTicks.toNat + (k - 1) * s.cfg.pollTicks.toNat ≤
        s.cfg.timeoutTicks.toNat := by
      rcases Nat.eq_zero_or_pos k with h | h
      · exact .inl h
      · right
        have h2 : s.elapsed + (k + 1 - 1) * s.cfg.pollTicks.toNat ≤ s.cfg.timeoutTicks.toNat := by
          rcases ht with ht | ht
          · omega
          · exact ht
        have h3 : k = k - 1 + 1 := by omega
        rw [Nat.add_sub_cancel, h3, Nat.add_mul] at h2
        omega
    rw [Nat.add_comm k 1, Nat.add_mul, Nat.one_mul, runTicks_add, runTicks_sample ha hb hop hp he hl hte]
    refine (ih (s := sampled 1 s.cfg.busyActiveLevel (List.replicate k s.cfg.busyActiveLevel ++ rest) s)
      ⟨ha.resets, ha.reads⟩ hb hop hp ?_ rfl ht').trans ?_
    · simp [sampled, he]
    · have h3 : s.samples + BitVec.ofNat 32 1 + BitVec.ofNat 32 k = s.samples + BitVec.ofNat 32 (1 + k) := by
        apply BitVec.eq_of_toNat_eq; simp [Nat.add_assoc]
      simp only [sampled, h3, Nat.one_mul, Nat.add_mul, Nat.add_assoc, List.append_assoc]
      rw [Nat.add_comm 1 k, samplesOf_succ, samplesOf_succ]
      simp [samplesOf]

/-! ### What a hold and WAIT's samples make of the state -/

section
variable (st : FramerState) (s : State)
@[simp] theorem held_build : (held st s).build = s.build := rfl
@[simp] theorem held_cfg : (held st s).cfg = s.cfg := rfl
@[simp] theorem held_opState : (held st s).opState = s.opState := rfl
@[simp] theorem held_curOp : (held st s).curOp = s.curOp := rfl
@[simp] theorem held_result : (held st s).result = s.result := rfl
@[simp] theorem held_lastOp : (held st s).lastOp = s.lastOp := rfl
@[simp] theorem held_sync : (held st s).sync = s.sync := rfl
@[simp] theorem held_elapsed : (held st s).elapsed = s.elapsed := rfl
@[simp] theorem held_samples : (held st s).samples = s.samples := rfl
@[simp] theorem held_notify : (held st s).notify = s.notify := rfl
@[simp] theorem held_packer : (held st s).packer = s.packer := rfl
@[simp] theorem held_dcSh : (held st s).dcSh = s.dcSh := rfl
@[simp] theorem held_csSh : (held st s).csSh = s.csSh := rfl
@[simp] theorem held_rstSh : (held st s).rstSh = s.rstSh := rfl
@[simp] theorem held_pbuf : (held st s).pbuf = s.pbuf := rfl
@[simp] theorem held_src : (held st s).src = s.src := rfl
@[simp] theorem held_faulted : (held st s).faulted = s.faulted := rfl
@[simp] theorem held_ops : (held st s).env.ops = s.env.ops := rfl
@[simp] theorem held_txns : (held st s).env.txns = s.env.txns := rfl
@[simp] theorem held_regReads : (held st s).env.regReads = s.env.regReads := rfl
@[simp] theorem held_resets : (held st s).env.resets = s.env.resets := rfl
@[simp] theorem held_answers : (held st s).env.answers = s.env.answers := rfl
@[simp] theorem held_busyLevels : (held st s).env.busyLevels = s.env.busyLevels := rfl
@[simp] theorem held_packTimes : (held st s).env.packTimes = s.env.packTimes := rfl
@[simp] theorem held_draws : (held st s).env.draws = s.env.draws := rfl
@[simp] theorem held_outstanding : (held st s).env.outstanding = s.env.outstanding := rfl
@[simp] theorem held_packLeft : (held st s).env.packLeft = s.env.packLeft := rfl
@[simp] theorem held_trace : (held st s).env.trace = s.env.trace := rfl
@[simp] theorem held_memReplies : (held st s).env.memReplies = s.env.memReplies := rfl
@[simp] theorem held_regReplies : (held st s).env.regReplies = s.env.regReplies := rfl
@[simp] theorem held_reached : (held st s).env.reached = s.env.reached := rfl
@[simp] theorem held_framer :
    (held st s).framer = st := rfl
@[simp] theorem held_now :
    (held st s).env.now = s.env.now + holdTicks s.cfg st := rfl
end

section
variable (k : Nat) (l : Level) (rest : List Level) (s : State)
@[simp] theorem sampled_build : (sampled k l rest s).build = s.build := rfl
@[simp] theorem sampled_cfg : (sampled k l rest s).cfg = s.cfg := rfl
@[simp] theorem sampled_opState : (sampled k l rest s).opState = s.opState := rfl
@[simp] theorem sampled_curOp : (sampled k l rest s).curOp = s.curOp := rfl
@[simp] theorem sampled_result : (sampled k l rest s).result = s.result := rfl
@[simp] theorem sampled_lastOp : (sampled k l rest s).lastOp = s.lastOp := rfl
@[simp] theorem sampled_framer : (sampled k l rest s).framer = s.framer := rfl
@[simp] theorem sampled_fcnt : (sampled k l rest s).fcnt = s.fcnt := rfl
@[simp] theorem sampled_sync : (sampled k l rest s).sync = s.sync := rfl
@[simp] theorem sampled_notify : (sampled k l rest s).notify = s.notify := rfl
@[simp] theorem sampled_packer : (sampled k l rest s).packer = s.packer := rfl
@[simp] theorem sampled_dcSh : (sampled k l rest s).dcSh = s.dcSh := rfl
@[simp] theorem sampled_csSh : (sampled k l rest s).csSh = s.csSh := rfl
@[simp] theorem sampled_rstSh : (sampled k l rest s).rstSh = s.rstSh := rfl
@[simp] theorem sampled_pbuf : (sampled k l rest s).pbuf = s.pbuf := rfl
@[simp] theorem sampled_src : (sampled k l rest s).src = s.src := rfl
@[simp] theorem sampled_faulted : (sampled k l rest s).faulted = s.faulted := rfl
@[simp] theorem sampled_ops : (sampled k l rest s).env.ops = s.env.ops := rfl
@[simp] theorem sampled_txns : (sampled k l rest s).env.txns = s.env.txns := rfl
@[simp] theorem sampled_regReads : (sampled k l rest s).env.regReads = s.env.regReads := rfl
@[simp] theorem sampled_resets : (sampled k l rest s).env.resets = s.env.resets := rfl
@[simp] theorem sampled_answers : (sampled k l rest s).env.answers = s.env.answers := rfl
@[simp] theorem sampled_packTimes : (sampled k l rest s).env.packTimes = s.env.packTimes := rfl
@[simp] theorem sampled_draws : (sampled k l rest s).env.draws = s.env.draws := rfl
@[simp] theorem sampled_outstanding : (sampled k l rest s).env.outstanding = s.env.outstanding := rfl
@[simp] theorem sampled_packLeft : (sampled k l rest s).env.packLeft = s.env.packLeft := rfl
@[simp] theorem sampled_memReplies : (sampled k l rest s).env.memReplies = s.env.memReplies := rfl
@[simp] theorem sampled_regReplies : (sampled k l rest s).env.regReplies = s.env.regReplies := rfl
@[simp] theorem sampled_reached : (sampled k l rest s).env.reached = s.env.reached := rfl
@[simp] theorem sampled_elapsed :
    (sampled k l rest s).elapsed = s.elapsed + k * s.cfg.pollTicks.toNat := rfl
@[simp] theorem sampled_samples :
    (sampled k l rest s).samples = s.samples + BitVec.ofNat 32 k := rfl
@[simp] theorem sampled_now :
    (sampled k l rest s).env.now = s.env.now + k * s.cfg.pollTicks.toNat := rfl
@[simp] theorem sampled_busyLevels :
    (sampled k l rest s).env.busyLevels = rest := rfl
@[simp] theorem sampled_trace :
    (sampled k l rest s).env.trace = s.env.trace ++ samplesOf s.env.now s.cfg.pollTicks.toNat k l := rfl
end

/-! ### The runs of the operations -/

/-- The run goes on from where `k` ticks lead, if the operation is still in progress or at its finish there. -/
theorem complete_step {s u : State} {k : Nat} (hs : s.opState = .idle ∨ ∃ r n, Going s r n) (hk : runTicks k s = u)
    (hu : u.opState = .idle ∨ ∃ r n, Going u r n) : complete s = complete u := by
  have hci : (complete s).opState = .idle := by
    rcases hs with h | ⟨r, n, h⟩
    · rw [complete_idle h]; exact h
    · exact h.complete_idle
  have hcu : (complete u).opState = .idle := by
    rcases hu with h | ⟨r, n, h⟩
    · rw [complete_idle h]; exact h
    · exact h.complete_idle
  obtain ⟨m, hm⟩ := complete_eq_runTicks u
  rw [hm] at hcu ⊢
  rw [← hk, ← runTicks_add] at hcu ⊢
  exact complete_eq_of_idle hcu hci

/-- What a request's return leads to: the framer's next move, or the failure of the operation. -/
theorem complete_issue {st : FramerState} {q : Request} {s : State} (ha : Alone s) (hb : s.opState = .busy)
    (hop : FramerOp s.curOp) (hf : awaits st = true) :
    complete (endTick (issue st q s)) =
      if (nextAnswer s.env).ok then complete (endTick (framerNext (returned st q s)))
      else endTick (finish .transportFailure (returned st q s)) := by
  have hadv : ∀ r, Advanced (phasesLeft st) r (endTick (framerNext (returned st q s))) := fun r =>
    advanced_framerNext (by simpa using hb) (by simpa using hop) rfl (by simpa using hf) (by simp)
  have h : complete (endTick (issue st q s)) = complete (endTick (replied st q s)) := by
    refine complete_step (.inr (going_issue hb hop hf)) (runTicks_issue ha hb hop) ?_
    unfold replied
    split
    · rcases hadv 0 with h | ⟨r, n, h, -⟩
      · exact .inl h
      · exact .inr ⟨r, n, h⟩
    · exact .inl rfl
  rw [h]
  unfold replied
  split
  · rfl
  · exact complete_idle rfl

/-- A frame (40_framer.md R120, R121, R123): its requests, one after the other, up to the first that fails. -/
theorem complete_startFrame (l : Level) {s s1 s2 s3 s4 : State} (ha : Alone s) (hb : s.opState = .busy)
    (hop : FramerOp s.curOp) (e1 : s1 = returned .fDc (.setPin .dc l) s)
    (e2 : s2 = returned .fCsa (.setPin .cs s.cfg.csActiveLevel) s1)
    (e3 : s3 = returned .fTx (.transmit (frameBytes s)) s2)
    (e4 : s4 = returned .fCsd (.setPin .cs s.cfg.csActiveLevel.other) s3) :
    complete (endTick (startFrame l s)) =
      if (nextAnswer s.env).ok then
        if (nextAnswer s1.env).ok then
          if (nextAnswer s2.env).ok then
            if (nextAnswer s3.env).ok then endTick (finish .ok s4) else endTick (finish .transportFailure s4)
          else endTick (finish .transportFailure s3)
        else endTick (finish .transportFailure s2)
      else endTick (finish .transportFailure s1) := by
  have ha1 : Alone s1 := e1 ▸ ha.returned _ _
  have ha2 : Alone s2 := e2 ▸ ha1.returned _ _
  have ha3 : Alone s3 := e3 ▸ ha2.returned _ _
  have n1 : framerNext s1 = issue .fCsa (.setPin .cs s.cfg.csActiveLevel) s1 := by simp [framerNext, e1]
  have n2 : framerNext s2 = issue .fTx (.transmit (frameBytes s)) s2 := by simp [framerNext, e2, e1, frameBytes]
  have n3 : framerNext s3 = issue .fCsd (.setPin .cs s.cfg.csActiveLevel.other) s3 := by
    simp [framerNext, e3, e2, e1]
  have n4 : framerNext s4 = finish .ok s4 := by simp [framerNext, e4]
  rw [startFrame, complete_issue ha hb hop rfl, ← e1, n1,
    complete_issue ha1 (by simpa [e1] using hb) (by simpa [e1] using hop) rfl, ← e2, n2,
    complete_issue ha2 (by simpa [e2, e1] using hb) (by simpa [e2, e1] using hop) rfl, ← e3, n3,
    complete_issue ha3 (by simpa [e3, e2, e1] using hb) (by simpa [e3, e2, e1] using hop) rfl, ← e4, n4,
    complete_idle (s := endTick (finish .ok s4)) rfl]

/-- A hold leads to its end. -/
theorem complete_startHold (st : FramerState) {s : State} (ha : Alone s) (hb : s.opState = .busy)
    (hop : FramerOp s.curOp) (ho : s.env.outstanding = none) (hf : holds st = true) :
    complete (endTick (startHold st s)) = complete (endTick (holdDone (held st s))) := by
  refine complete_step ?_ (runTicks_startHold st ha hb hop ho hf) ?_
  · rcases advanced_startHold (r := phasesLeft st + 1) (n := 0) hb hop ho hf (by omega) with h | ⟨r, n, h, -⟩
    · exact .inl h
    · exact .inr ⟨r, n, h⟩
  · rcases advanced_holdDone (s := held st s) (r := phasesLeft st) (n := 0) hb hop hf (le_refl _) with h | ⟨r, n, h, -⟩
    · exact .inl h
    · exact .inr ⟨r, n, h⟩

theorem Alone.held {s : State} (h : Alone s) (st : FramerState) : Alone (held st s) := ⟨h.resets, h.reads⟩

/-- The reset waveform (40_framer.md R140): its edges and holds, up to the first request that fails. -/
theorem complete_startPulse {s s0 s1 s2 s3 h1 h2 h3 : State} (ha : Alone s) (hb : s.opState = .busy)
    (hop : FramerOp s.curOp) (e0 : s0 = { s with fcnt := 0 })
    (e1 : s1 = returned .rSet1 (.setPin .rst s.cfg.rstRunLevel) s0) (f1 : h1 = held .rHold1 s1)
    (e2 : s2 = returned .rSet2 (.setPin .rst s.cfg.rstRunLevel.other) h1) (f2 : h2 = held .rDelay s2)
    (e3 : s3 = returned .rSet3 (.setPin .rst s.cfg.rstRunLevel) h2) (f3 : h3 = held .rHold2 s3) :
    complete (endTick (startPulse s)) =
      if (nextAnswer s.env).ok then
        if (nextAnswer h1.env).ok then
          if (nextAnswer h2.env).ok then endTick (finish .ok h3) else endTick (finish .transportFailure s3)
        else endTick (finish .transportFailure s2)
      else endTick (finish .transportFailure s1) := by
  have ha0 : Alone s0 := e0 ▸ ⟨ha.resets, ha.reads⟩
  have ha1 : Alone s1 := e1 ▸ ha0.returned _ _
  have hah1 : Alone h1 := f1 ▸ ha1.held _
  have ha2 : Alone s2 := e2 ▸ hah1.returned _ _
  have hah2 : Alone h2 := f2 ▸ ha2.held _
  have ha3 : Alone s3 := e3 ▸ hah2.returned _ _
  have b1 : s1.opState = .busy ∧ FramerOp s1.curOp ∧ s1.cfg = s.cfg ∧ s1.env.outstanding = none := by
    simp [e1, e0, hb, hop]
  have c1 : h1.opState = .busy ∧ FramerOp h1.curOp ∧ h1.cfg = s.cfg ∧ h1.framer = .rHold1 := by
    simp [f1, held, b1]
  have b2 : s2.opState = .busy ∧ FramerOp s2.curOp ∧ s2.cfg = s.cfg ∧ s2.env.outstanding = none := by
    simp [e2, c1]
  have c2 : h2.opState = .busy ∧ FramerOp h2.curOp ∧ h2.cfg = s.cfg ∧ h2.framer = .rDelay := by
    simp [f2, held, b2]
  have b3 : s3.opState = .busy ∧ FramerOp s3.curOp ∧ s3.cfg = s.cfg ∧ s3.env.outstanding = none := by
    simp [e3, c2]
  have n1 : framerNext s1 = startHold .rHold1 s1 := by simp [framerNext, e1]
  have n2 : framerNext s2 = startHold .rDelay s2 := by simp [framerNext, e2]
  have n3 : framerNext s3 = startHold .rHold2 s3 := by simp [framerNext, e3]
  have m1 : holdDone h1 = issue .rSet2 (.setPin .rst s.cfg.rstRunLevel.other) h1 := by simp [holdDone, c1]
  have m2 : holdDone h2 = issue .rSet3 (.setPin .rst s.cfg.rstRunLevel) h2 := by simp [holdDone, c2]
  have m3 : holdDone h3 = finish .ok h3 := by simp [holdDone, f3, held]
  rw [startPulse, ← e0, complete_issue ha0 (e0 ▸ hb) (e0 ▸ hop) rfl, ← e1, n1,
    complete_startHold _ ha1 b1.1 b1.2.1 b1.2.2.2 rfl, ← f1, m1, complete_issue hah1 c1.1 c1.2.1 rfl, ← e2, n2,
    complete_startHold _ ha2 b2.1 b2.2.1 b2.2.2.2 rfl, ← f2, m2, complete_issue hah2 c2.1 c2.2.1 rfl, ← e3, n3,
    complete_startHold _ ha3 b3.1 b3.2.1 b3.2.2.2 rfl, ← f3, m3, complete_idle (s := endTick (finish .ok h3)) rfl, e0]

/-- The packer's run. -/
theorem complete_startPack {s : State} (ha : Alone s) (hb : s.opState = .busy) (hop : PackerOp s.curOp) :
    complete (endTick (startPack s)) =
      endTick (finish .ok
        { s with
          packer := .pRun, pbuf := s.pbuf.setLow (fullLen s.cfg) (packerByte s.cfg s.curOp s.src),
          env := { takePackTime s.env with packLeft := 0, now := s.env.now + (nextPackTime s.env + 1) } }) := by
  rw [complete_step (.inr (going_startPack hb hop)) (runTicks_startPack ha hb hop) (.inl rfl)]
  exact complete_idle rfl

/-- WAIT, from a sample tick on, if `k` busy samples come first (41_busy_sync.md R160): its run ends where the sample after
them exits. -/
theorem complete_waitTick (k : Nat) (code : Result) {s : State} {rest : List Level} (ha : Alone s)
    (hb : s.opState = .busy) (hop : fieldOp s.curOp = 4) (hp : 1 ≤ s.cfg.pollTicks.toNat) (he : s.elapsed = 0)
    (hl : s.env.busyLevels = List.replicate k s.cfg.busyActiveLevel ++ rest)
    (ht : k = 0 ∨ (k - 1) * s.cfg.pollTicks.toNat ≤ s.cfg.timeoutTicks.toNat)
    (hx : waitTick (sampled k s.cfg.busyActiveLevel rest s) =
      exitWait code (sampleBusy (sampled k s.cfg.busyActiveLevel rest s))) :
    complete (endTick (waitTick s)) =
      endTick (exitWait code (sampleBusy (sampled k s.cfg.busyActiveLevel rest s))) := by
  have h0 : endTick (waitTick s) = tick s := by rw [ha.tick, engineTick_wait hop]
  have hrun : runTicks (k * s.cfg.pollTicks.toNat + 1) s =
      endTick (exitWait code (sampleBusy (sampled k s.cfg.busyActiveLevel rest s))) := by
    have hb' : (sampled k s.cfg.busyActiveLevel rest s).opState = .busy := hb
    rw [runTicks_add, runTicks_sampled k ha hb hop hp (by simp [he]) hl (by simpa [he] using ht), runTicks_busy hb',
      runTicks, Alone.tick (s := sampled k s.cfg.busyActiveLevel rest s) ⟨ha.resets, ha.reads⟩,
      engineTick_wait (s := sampled k s.cfg.busyActiveLevel rest s) hop, hx]
  rw [runTicks_busy hb] at hrun
  rw [h0, complete_step ?_ hrun (.inl rfl)]
  · exact complete_idle rfl
  · rw [← h0]; exact going_waitTick hb hop hp he

end Sys2Proof.Machine
end

