-- ==== Sys2Proof/Tests/Slice0.lean ====
section
/-! SUPPORT. Tests: words decoded as 95_test_vectors.md section 3.1 gives them, ill-formed assembly lines refused, single
steps of the vectors of sections 3.2 to 3.9, and for every statement with hypotheses a state and operands that meet them. -/

namespace Sys2Proof.Tests

open Sys2Proof Sys2Proof.Machine

set_option maxRecDepth 100000

/-! ### Small states -/

/-- A request that returns ok in the tick after its issue (95_test_vectors.md section 1). -/
def okAns : Answer := ⟨true, 0, 0⟩

/-- A request that returns err in the tick after its issue. -/
def errAns : Answer := ⟨false, 0, 0⟩

/-- An environment with the given draws. -/
def envOf (answers : List Answer) (busy : List Level) (packs : List Nat) : Env :=
  { Env.start with answers := answers, busyLevels := busy, packTimes := packs }

/-- A block under configuration EX right after reset. -/
def exWith (answers : List Answer) (busy : List Level) (packs : List Nat) : State :=
  { State.reset with env := envOf answers busy packs }

/-- Configuration EX10 (95_test_vectors.md section 1). -/
def cfg10 : Cfg := { Cfg.ex with pw := 10, ph := 3, polarity := .darkIsOne }

/-- A W × H source, dark exactly at the listed pixels. -/
def srcOf (w h : Nat) (dark : List (Nat × Nat)) : Memory Bool :=
  (List.range h).flatMap (fun y => (List.range w).map (fun x => (srcKey x y, decide ((x, y) ∈ dark))))

/-- A block under EX10 right after reset, its source written. -/
def ex10 (src : Memory Bool) : State :=
  { State.afterReset { Build.ex with srcWMax := 16, srcHMax := 16 } cfg10 with src := src, env := envOf [] [] [0] }

/-- A view of the next state of an outcome; none where it is no next state. -/
def view {α : Type} (o : Host.Outcome State Fault Refusal) (f : State → α) : Option α :=
  match o with
  | .next t => some (f t)
  | _ => none

/-- The outcome is a next state. -/
def isNext (o : Host.Outcome State Fault Refusal) : Bool := (view o (fun _ => ())).isSome

theorem exists_next {o : Host.Outcome State Fault Refusal} (h : isNext o = true) : ∃ t, o = .next t := by
  cases o with
  | next t => exact ⟨t, rfl⟩
  | fault f => cases h
  | refused r => cases h

theorem exists_next_with {o : Host.Outcome State Fault Refusal} {p : State → Prop} [DecidablePred p]
    (h : view o (fun t => decide (p t)) = some true) : ∃ t, o = .next t ∧ p t := by
  cases o with
  | next t => exact ⟨t, rfl, of_decide_eq_true (Option.some.inj h)⟩
  | fault f => cases h
  | refused r => cases h

theorem sourceWritten_of {s : State} {w h : Nat} (hs : firstUnwrittenCell s.src w 0 h = none) : SourceWritten s w h := by
  intro x y hx hy
  exact firstUnwrittenCell_eq_none.1 hs x y hx (Nat.zero_le y) (by omega)

/-! ### Decoding: words written out from 30_encoding.md R92, as 95_test_vectors.md section 3.1 gives them -/

theorem test_decode_cmd : decode 0b00010000000000000000000000010010 = some (.cmd 0x12) := by decide

theorem test_decode_data : decode 0b00100000000000000000000011110111 = some (.data 0xF7) := by decide

/-- E7: LEN 1, ADDR 16383. -/
theorem test_decode_datab : decode 0b00110000000000000111111111111111 = some (.datab 1 16383) := by decide

theorem test_decode_wait : decode 0b01000000000000000000000000000000 = some .wait := by decide

theorem test_decode_rstp : decode 0b01010000000000000000000000000000 = some .rstp := by decide

/-- E11. -/
theorem test_decode_packFull : decode 0b01100000000011110100000011111010 = some (.packFull 122 250) := by decide

/-- E16. -/
theorem test_decode_packSub : decode 0b01100100000000011000000000000001 = some (.packSub 12 1) := by decide

theorem test_decode_fill : decode 0b01110000000000000000000011111111 = some (.fill 0xFF) := by decide

/-- E21 to E28. -/
theorem test_decode_illegal :
    [0x00000000, 0x10000100, 0x7000FF00, 0x40000001, 0x50000001, 0x68000000, 0x8FFFFFFF, 0xF0000000].map decode =
      List.replicate 8 none := by decide

/-- The host's numbering: bit 0 is the least significant bit of the word. -/
theorem test_decodeTableWord :
    decodeTableWord 32 0x601F407A = some (.packFull 250 122) ∧ decodeTableWord 32 0x100000000 = none := by decide

/-! ### Ill-formed assembly lines are refused (30_encoding.md R98) -/

theorem test_wellFormed_cmd : (AsmLine.cmd 255).wellFormed = true ∧ (AsmLine.cmd 256).wellFormed = false := by decide

theorem test_wellFormed_data : (AsmLine.data 255).wellFormed = true ∧ (AsmLine.data 256).wellFormed = false := by decide

theorem test_wellFormed_datab_addr :
    (AsmLine.datab 16383 1).wellFormed = true ∧ (AsmLine.datab 16384 1).wellFormed = false := by decide

theorem test_wellFormed_datab_len :
    (AsmLine.datab 0 16383).wellFormed = true ∧ (AsmLine.datab 0 16384).wellFormed = false := by decide

theorem test_wellFormed_packFull :
    (AsmLine.packFull 8191 8191).wellFormed = true ∧ (AsmLine.packFull 8192 1).wellFormed = false ∧
      (AsmLine.packFull 1 8192).wellFormed = false := by decide

theorem test_wellFormed_packSub :
    (AsmLine.packSub 8191 8191).wellFormed = true ∧ (AsmLine.packSub 8192 1).wellFormed = false ∧
      (AsmLine.packSub 1 8192).wellFormed = false := by decide

theorem test_wellFormed_fill : (AsmLine.fill 255).wellFormed = true ∧ (AsmLine.fill 256).wellFormed = false := by decide

theorem test_wellFormed_word :
    (AsmLine.word 0xFFFFFFFF).wellFormed = true ∧ (AsmLine.word 0x100000000).wellFormed = false := by decide

/-- Operands in their fields (E3, E12, E16). -/
theorem test_assemble :
    AsmLine.assemble (.datab 0 4000) = some 0x33E80000 ∧ AsmLine.assemble (.packFull 250 122) = some 0x601F407A ∧
      AsmLine.assemble (.packSub 12 1) = some 0x64018001 ∧ AsmLine.assemble (.datab 16384 1) = none := by decide

/-! ### Single steps: 95_test_vectors.md sections 3.2 to 3.9 -/

/-- F1. -/
theorem test_cmd_frame :
    view (step ((exWith [okAns, okAns, okAns, okAns] [] []).withFetchWord 32 0x10000012))
        (fun t => (statusReg t, pinShReg t, t.env.trace)) =
      some (0x102, 0x24,
        [⟨0, .request (.setPin .dc .low) .ok 1⟩, ⟨1, .request (.setPin .cs .low) .ok 2⟩,
         ⟨2, .request (.transmit [0x12]) .ok 3⟩, ⟨3, .request (.setPin .cs .high) .ok 4⟩,
         ⟨4, .done 0x10000012 .ok⟩]) := by decide

/-- F3 row 3: CS is left active. -/
theorem test_cmd_transmit_fails :
    view (step ((exWith [okAns, okAns, errAns] [] []).withFetchWord 32 0x10000020))
        (fun t => (t.result, t.dcSh, t.csSh, t.env.trace.length, t.env.now)) =
      some (.transportFailure, .low, .low, 4, 4) := by decide

/-- F2. -/
theorem test_data_frame :
    view (step ((exWith [okAns, okAns, okAns, okAns] [] []).withFetchWord 32 0x200000F7))
        (fun t => (t.dcSh, t.csSh, t.env.reached, t.env.now)) = some (.high, .high, [0xF7], 5) := by decide

/-- F4. -/
theorem test_datab_frame :
    view
        (step (State.withFetchWord
          { exWith [okAns, okAns, okAns, okAns] [] [] with pbuf := [(0, 0xFF), (1, 0xFE), (2, 0xFD), (3, 0xFC)] } 32
          0x30010000))
        (fun t => (t.result, t.env.reached, t.env.now)) = some (.ok, [0xFF, 0xFE, 0xFD, 0xFC], 5) := by decide

/-- F8: byte 2 was never written. -/
theorem test_datab_unwritten :
    (match step (State.withFetchWord { State.reset with pbuf := [(0, 0xFF), (1, 0xFF), (3, 0xFF)] } 32 0x30010000) with
      | .fault (.uninitPbuf a left) => decide (a = 2 ∧ left.faulted = true ∧ left.env.trace = [] ∧ left.result = .none)
      | _ => false) = true := by decide

/-- W1. -/
theorem test_wait_timeout :
    view (step ((exWith [] (List.replicate 5 .high) []).withFetchWord 32 0x40000000))
        (fun t => (statusReg t, readReg t 8, readReg t 9, t.env.now)) = some (0x404, 0x28, 5, 41) := by decide

/-- W9: the ready test comes before the deadline test. -/
theorem test_wait_ready_at_deadline :
    view (step ((exWith [] [.high, .high, .high, .high, .low] []).withFetchWord 32 0x40000000))
        (fun t => (t.result, t.elapsed, t.samples)) = some (.ok, 40, 5) := by decide

/-- RP1. -/
theorem test_rstp_waveform :
    view (step ((exWith [okAns, okAns, okAns] [] []).withFetchWord 32 0x50000000)) (fun t => t.env.trace) =
      some [⟨0, .request (.setPin .rst .high) .ok 1⟩, ⟨21, .request (.setPin .rst .low) .ok 22⟩,
        ⟨24, .request (.setPin .rst .high) .ok 25⟩, ⟨45, .done 0x50000000 .ok⟩] := by decide

/-- RP6: each request returns 3 ticks after its issue. -/
theorem test_rstp_slow :
    view (step ((exWith (List.replicate 3 ⟨true, 2, 0⟩) [] []).withFetchWord 32 0x50000000))
        (fun t => t.env.trace.map (fun e => e.tick)) = some [0, 23, 28, 51] := by decide

/-- PF1. -/
theorem test_packFull_straight :
    view (step ((ex10 (srcOf 10 3 [(0, 0), (7, 0), (8, 0), (3, 1), (9, 2)])).withFetchWord 32 0x60014003))
        (fun t => t.pbuf.map (fun c => c.2)) = some [0x81, 0x80, 0x10, 0x00, 0x00, 0x40] := by decide

/-- PF4: the image is transposed. -/
theorem test_packFull_rotated :
    view (step ((ex10 (srcOf 3 10 [(0, 0), (2, 9), (1, 5)])).withFetchWord 32 0x6000600A))
        (fun t => t.pbuf.map (fun c => c.2)) = some [0x00, 0x40, 0x08, 0x00, 0x80, 0x00] := by decide

/-- PS2: columns 10 and 11 are dropped. -/
theorem test_packSub_drops :
    view (step ((ex10 (srcOf 12 1 [(9, 0), (10, 0), (11, 0)])).withFetchWord 32 0x64018001))
        (fun t => t.pbuf.map (fun c => c.2)) = some [0x00, 0x40, 0x00, 0x00, 0x00, 0x00] := by decide

/-- PS4: an empty sub-image overwrites the buffer with zeros. -/
theorem test_packSub_empty :
    view (step (State.withFetchWord { ex10 [] with pbuf := [(0, 0xAA), (5, 0xAA), (6, 0xAA)] } 32 0x64000000))
        (fun t => t.pbuf.map (fun c => c.2)) = some [0x00, 0x00, 0x00, 0x00, 0x00, 0x00, 0xAA] := by decide

/-- FL2. -/
theorem test_fill :
    view (step ((ex10 []).withFetchWord 32 0x7000005A)) (fun t => (t.pbuf.map (fun c => c.2), t.env.now)) =
      some ([0x5A, 0x5A, 0x5A, 0x5A, 0x5A, 0x5A], 2) := by decide

/-- E22: accepted, ILLEGAL_OP in 0 ticks, LASTOP 1. -/
theorem test_illegal_word :
    view (step (State.reset.withFetchWord 32 0x10000100)) (fun t => (statusReg t, t.env.now)) = some (0x10A, 1) := by decide

/-- Section 1 and M3: the registers of EX right after reset. -/
theorem test_registers :
    (List.range 16).map (fun r => (readReg State.reset (BitVec.ofNat 4 r)).toNat) =
      [0, 10, 35, 20, 2, 0x00FA007A, 0x3C, 0x2A, 0, 0, 0x4000, 0x00FA00FA, 0, 0, 0, 0] := by decide

/-- Section 3.8. -/
theorem test_classify :
    classify Cfg.ex 127 128 127 = true ∧ classify Cfg.ex 127 128 128 = false ∧
      classify { Cfg.ex with ch16 := true } 32767 32768 32767 = true ∧
      classify { Cfg.ex with ch16 := true } 32767 32768 32768 = false := by decide

/-- P1: the words of the initialization and their count. -/
theorem test_initialization_length : (initLines Cfg.ex).length = 24 := by decide

/-! ### Witnesses: states and operands that meet the hypotheses of the statements -/

/-- Four requests that return ok. -/
def ok4 : State := exWith [okAns, okAns, okAns, okAns] [] []

/-- With bytes 0 to 3 and byte 16383 of PBUF written. -/
def written4 : State := { ok4 with pbuf := [(0, 0xFF), (1, 0xFE), (2, 0xFD), (3, 0xFC), (16383, 0xAA)] }

/-- A frame that fails at its request number j + 1. -/
def failAt (j : Nat) : State := exWith (List.replicate j okAns ++ errAns :: List.replicate (3 - j) okAns) [] []

/-- A transaction on the memory port, some memory written. -/
def portWith (x : MemTxn) : State :=
  { State.reset with pbuf := [(16383, 0x12)], src := [(srcKey 249 249, true)], env := { Env.start with txns := [(0, x)] } }

theorem test_meets_DecodedWordIsEncoded : decode 0x67FFFFFF = some (.packSub 8191 8191) := by decide

/-- The ends of the illegal OP ranges, and of each format's must-be-zero field one word with one bit set; beside them the
last legal word of a format. -/
theorem test_meets_IllegalWordFinishesIllegalOp :
    [0x0FFFFFFF, 0x80000000, 0x28000000, 0x70000100, 0x48000000, 0x50000001, 0x68000000].map decode = List.replicate 7 none ∧
      [0x100000FF, 0x3FFFFFFF, 0x67FFFFFF, 0x700000FF].all (fun w => (decode w).isSome) = true ∧
      decode 0x10000100 = none ∧ Ready (State.reset.withFetchWord 32 0x10000100) ∧
      resetDue (State.reset.withFetchWord 32 0x10000100) = false ∧
      presentedWord (State.reset.withFetchWord 32 0x10000100) = some 0x10000100 :=
  ⟨by decide, by decide, by decide, by decide, by decide, by decide⟩

theorem test_meets_AssemblyLineWords :
    AsmLine.assemble (.cmd 255) = some 0x100000FF ∧ AsmLine.assemble (.cmd 256) = none ∧
      AsmLine.assemble (.datab 16383 16383) = some 0x3FFFFFFF ∧ AsmLine.assemble (.datab 0 16384) = none ∧
      AsmLine.assemble (.packFull 8191 8191) = some 0x63FFFFFF ∧ AsmLine.assemble (.packSub 8192 0) = none ∧
      AsmLine.assemble (.word 4294967295) = some 0xFFFFFFFF ∧ AsmLine.assemble (.word 4294967296) = none := by decide

theorem test_meets_StepRunsPresentedOperation :
    Ready (State.reset.withFetchWord 32 0x40000000) ∧ resetDue (State.reset.withFetchWord 32 0x40000000) = false ∧
      presentedWord (State.reset.withFetchWord 32 0x40000000) = some 0x40000000 ∧ decode 0x40000000 = some .wait ∧
      legalCfg State.reset.build State.reset.cfg = true := by decide

/-- For CmdFramesOneCommandByte, with every operand. -/
theorem test_meets_CmdFramesOneCommandByte :
    Ready ok4 ∧ NoReset ok4 ∧ ok4.env.answers = okAns :: okAns :: okAns :: okAns :: [] ∧ okAns.ok = true := by decide

theorem test_meets_DataFramesOneDataByte :
    Ready ok4 ∧ NoReset ok4 ∧ ok4.env.answers = okAns :: okAns :: okAns :: okAns :: [] ∧ okAns.ok = true := by decide

theorem test_meets_DatabFramesBufferRange :
    Ready written4 ∧ NoReset written4 ∧ written4.env.answers = okAns :: okAns :: okAns :: okAns :: [] ∧
      okAns.ok = true ∧ 0 + 4 ≤ written4.build.pbufSize.toNat ∧
      (∀ k, k < 4 → written4.pbuf.read (0 + k) = [0xFF#8, 0xFE#8, 0xFD#8, 0xFC#8][k]?) ∧
      16383 + 1 ≤ written4.build.pbufSize.toNat ∧ (∀ k, k < 1 → written4.pbuf.read (16383 + k) = [0xAA#8][k]?) :=
  ⟨by decide, rfl, rfl, rfl, by decide, by decide, by decide, by decide⟩

theorem test_meets_FailedRequestEndsFrame :
    (∀ j, j < 4 → Ready (failAt j) ∧ NoReset (failAt j)) ∧
      (∀ j, j < 4 → FrameOf (failAt j) (.cmd 0x20) .low [0x20]) ∧ FrameOf ok4 (.data 0x20) .high [0x20] ∧
      FrameOf written4 (.datab 4 0) .high [0xFF, 0xFE, 0xFD, 0xFC] ∧
      (failAt 0).env.answers = errAns :: okAns :: okAns :: okAns :: [] ∧
      (failAt 1).env.answers = okAns :: errAns :: okAns :: okAns :: [] ∧
      (failAt 2).env.answers = okAns :: okAns :: errAns :: okAns :: [] ∧
      (failAt 3).env.answers = okAns :: okAns :: okAns :: errAns :: [] ∧ errAns.ok = false := by
  refine ⟨by decide, fun j _ => .inl ⟨0x20, rfl, rfl, rfl⟩, .inr (.inl ⟨0x20, rfl, rfl, rfl⟩), ?_, by decide, by decide,
    by decide, by decide, rfl⟩
  exact .inr (.inr ⟨4, 0, rfl, by decide, by decide, rfl, rfl, by decide⟩)

theorem test_meets_DatabBadRangeIsInvalidInput :
    Ready State.reset ∧ (0#14).toNat = 0 ∧ State.reset.build.pbufSize.toNat < (16383#14).toNat + (2#14).toNat := by decide

theorem test_meets_DatabUnwrittenByteFaults :
    Ready written4 ∧ 1 ≤ (5#14).toNat ∧ (0#14).toNat + (5#14).toNat ≤ written4.build.pbufSize.toNat ∧
      ∃ k, k < (5#14).toNat ∧ written4.pbuf.read ((0#14).toNat + k) = none :=
  ⟨by decide, by decide, by decide, 4, by decide, by decide⟩

theorem test_meets_RstpDrivesDoublePulse :
    Ready ok4 ∧ NoReset ok4 ∧ ok4.env.answers = okAns :: okAns :: okAns :: [okAns] ∧ okAns.ok = true := by decide

theorem test_meets_FailedRequestEndsPulse :
    (∀ j, j < 3 → Ready (failAt j) ∧ NoReset (failAt j)) ∧
      (failAt 0).env.answers = errAns :: okAns :: okAns :: [okAns] ∧
      (failAt 1).env.answers = okAns :: errAns :: okAns :: [okAns] ∧
      (failAt 2).env.answers = okAns :: okAns :: errAns :: [okAns] ∧ okAns.ok = true ∧ errAns.ok = false := by decide

theorem test_meets_FramerOperationFrame :
    NoReset written4 ∧ ∀ i ∈ [Instr.cmd 0x12, .data 0xF7, .datab 4 0, .datab 0 0, .rstp], ∃ t, exec i written4 = .next t :=
  ⟨rfl, fun i hi => exists_next (by revert i; decide)⟩

/-- The first sample ready (k = 0), and the last one the deadline allows (k = 4). -/
theorem test_meets_WaitEndsAtReadySample :
    Ready (exWith [] [.low] []) ∧ NoReset (exWith [] [.low] []) ∧
      (exWith [] [.low] []).env.busyLevels = List.replicate 0 Cfg.ex.busyActiveLevel ++ Level.low :: [] ∧
      (exWith [] [.high, .high, .high, .high, .low] []).env.busyLevels =
        List.replicate 4 Cfg.ex.busyActiveLevel ++ Level.low :: [] ∧
      Level.low ≠ Cfg.ex.busyActiveLevel ∧ (4 - 1) * Cfg.ex.pollTicks.toNat ≤ Cfg.ex.timeoutTicks.toNat ∧
      ∃ t, exec .wait (exWith [] [.high, .high, .high, .high, .low] []) = .next t ∧ t.result = .ok ∧ t.env.now = 41 :=
  ⟨by decide, rfl, rfl, rfl, by decide, by decide, exists_next_with (by decide)⟩

theorem test_meets_WaitTimesOutWithinOnePoll :
    Ready (exWith [] (List.replicate 5 .high) []) ∧ NoReset (exWith [] (List.replicate 5 .high) []) ∧
      (exWith [] (List.replicate 5 .high) []).env.busyLevels =
        List.replicate (Cfg.ex.timeoutTicks.toNat / Cfg.ex.pollTicks.toNat + 2) Cfg.ex.busyActiveLevel ++ [] := by decide

theorem test_meets_WaitNotifiesTrueThenFalse :
    NoReset (exWith [] [.high, .low] []) ∧ ∃ t, exec .wait (exWith [] [.high, .low] []) = .next t :=
  ⟨rfl, exists_next (by decide)⟩

theorem test_meets_WaitFrameAndResults :
    NoReset (exWith [] (List.replicate 5 .high) []) ∧
      ∃ t, exec .wait (exWith [] (List.replicate 5 .high) []) = .next t ∧ t.result = .timeout :=
  ⟨rfl, exists_next_with (by decide)⟩

/-- A 10 × 3 image under EX10. -/
def full10 : State := ex10 (srcOf 10 3 [(0, 0), (9, 2)])

/-- A 3 × 10 image under EX10. -/
def turned10 : State := ex10 (srcOf 3 10 [(0, 0), (2, 9)])

/-- A 16 × 2 image under EX10. -/
def sub10 : State := ex10 (srcOf 16 2 [(0, 0), (15, 1)])

theorem test_meets_PackFullPlacesEveryPixel :
    Ready full10 ∧ NoReset full10 ∧ 10#13 = full10.cfg.pw ∧ 3#13 = full10.cfg.ph ∧ SourceWritten full10 10 3 ∧
      full10.src.read (srcKey 9 2) = some true :=
  ⟨by decide, rfl, rfl, rfl, sourceWritten_of (by decide), by decide⟩

theorem test_meets_PackFullRotatesTransposedImage :
    Ready turned10 ∧ NoReset turned10 ∧ 3#13 = turned10.cfg.ph ∧ 10#13 = turned10.cfg.pw ∧
      ¬ (3#13 = turned10.cfg.pw ∧ 10#13 = turned10.cfg.ph) ∧ SourceWritten turned10 3 10 ∧
      turned10.src.read (srcKey 2 9) = some true :=
  ⟨by decide, rfl, rfl, rfl, by decide, sourceWritten_of (by decide), by decide⟩

theorem test_meets_PackFullOtherSizeIsInvalidInput :
    Ready full10 ∧ ¬ (10#13 = full10.cfg.pw ∧ 4#13 = full10.cfg.ph) ∧ ¬ (10#13 = full10.cfg.ph ∧ 4#13 = full10.cfg.pw) := by
  decide

/-- The widest sub-image the grid holds, wider than the panel; and the empty one. -/
theorem test_meets_PackSubPlacesAndDrops :
    Ready sub10 ∧ NoReset sub10 ∧ (16#13).toNat ≤ sub10.build.srcWMax.toNat ∧ (2#13).toNat ≤ sub10.build.srcHMax.toNat ∧
      SourceWritten sub10 (16#13).toNat (2#13).toNat ∧ SourceWritten sub10 (0#13).toNat (0#13).toNat :=
  ⟨by decide, rfl, by decide, by decide, sourceWritten_of (by decide), sourceWritten_of (by decide)⟩

theorem test_meets_PackSubOutsideSourceIsInvalidInput :
    Ready sub10 ∧ sub10.build.srcWMax.toNat < (17#13).toNat ∧ sub10.build.srcHMax.toNat < (17#13).toNat := by decide

theorem test_meets_PackUnwrittenCellFaults :
    Ready sub10 ∧ (10#13 = sub10.cfg.pw ∧ 3#13 = sub10.cfg.ph ∧ sub10.src.read (srcKey 0 2) = none) ∧
      (3#13 = sub10.cfg.ph ∧ 10#13 = sub10.cfg.pw ∧ sub10.src.read (srcKey 0 9) = none) ∧
      ((16#13).toNat ≤ sub10.build.srcWMax.toNat ∧ (3#13).toNat ≤ sub10.build.srcHMax.toNat ∧
        sub10.src.read (srcKey 15 2) = none) := by decide

theorem test_meets_FillWritesWholeBuffer : Ready (ex10 []) ∧ NoReset (ex10 []) := by decide

theorem test_meets_PackerOperationFrame :
    NoReset full10 ∧
      ∀ i ∈ [Instr.packFull 10 3, .packFull 10 4, .packSub 4 2, .packSub 17 1, .fill 0x5A], ∃ t, exec i full10 = .next t :=
  ⟨rfl, fun i hi => exists_next (by revert i; decide)⟩

theorem test_meets_ClassificationThresholds :
    Cfg.ex.ch16 = false ∧ (255#16).toNat ≤ 255 ∧ (0#16).toNat ≤ 255 ∧ (127#16).toNat ≤ 255 ∧
      ({ Cfg.ex with ch16 := true }).ch16 = true := by decide

theorem test_meets_LightAndDarkBytes :
    (7 : Nat) < 8 ∧ (lightByte .lightIsOne).getLsbD 7 = true ∧ (darkByte .darkIsOne).getLsbD 0 = true := by decide

theorem test_meets_MemoryPortWrites :
    PortServes (portWith (.pbWr 16383 0xAA)) (.pbWr 16383 0xAA) ∧ PortServes (portWith (.srcWr 249 249 true)) (.srcWr 249 249 true) ∧
      PortServes (portWith (.srcWrRgb 3 1 127 128 127)) (.srcWrRgb 3 1 127 128 127) ∧
      16383 < State.reset.build.pbufSize.toNat ∧ 249 < State.reset.build.srcWMax.toNat ∧
      249 < State.reset.build.srcHMax.toNat :=
  ⟨⟨by decide, by decide, by decide, 0, [], rfl, by decide⟩, ⟨by decide, by decide, by decide, 0, [], rfl, by decide⟩,
    ⟨by decide, by decide, by decide, 0, [], rfl, by decide⟩, by decide, by decide, by decide⟩

/-- A written and an unwritten byte, a written and an unwritten cell. -/
theorem test_meets_MemoryPortReads :
    (∀ x ∈ [MemTxn.pbRd 16383, .pbRd 0, .srcRd 249 249, .srcRd 0 0], PortServes (portWith x) x) ∧
      (portWith (.pbRd 16383)).pbuf.read 16383 = some 0x12 ∧ (portWith (.pbRd 0)).pbuf.read 0 = none ∧
      (portWith (.srcRd 249 249)).src.read (srcKey 249 249) = some true ∧
      (portWith (.srcRd 0 0)).src.read (srcKey 0 0) = none := by
  refine ⟨fun x hx => ⟨?_, ?_, ?_, 0, [], rfl, Nat.le_refl 0⟩, by decide, by decide, by decide, by decide⟩ <;>
    revert x <;> decide

/-- M1: the first byte above PBUF, the first column and the first row outside SRC; and for the second clause the last byte
and the last cell inside. -/
theorem test_meets_OutOfRangeTransactionHasNoEffect :
    (∀ x ∈ [MemTxn.pbWr 16384 0x12, .pbRd 16384, .srcWr 250 0 true, .srcWrRgb 0 250 1 2 3, .srcRd 250 0, .srcRd 249 249],
        PortServes (portWith x) x) ∧
      State.reset.build.pbufSize.toNat ≤ 16384 ∧ State.reset.build.srcWMax.toNat ≤ 250 ∧
      State.reset.build.srcHMax.toNat ≤ 250 ∧ ∃ t, step (portWith (.srcRd 249 249)) = .next t := by
  refine ⟨fun x hx => ⟨?_, ?_, ?_, 0, [], rfl, Nat.le_refl 0⟩, by decide, by decide, by decide, exists_next (by decide)⟩ <;>
    revert x <;> decide

theorem test_meets_MemoryPortHeldDuringOperation :
    ∃ t, exec (.cmd 0x12) { ok4 with env := { ok4.env with txns := [(0, .pbWr 0 0x12)] } } = .next t :=
  exists_next (by decide)

/-- A read that is due in the tick of the step. -/
def reading (k : Nat) (s : State) : State := { s with env := { s.env with regReads := [(k, 0)] } }

theorem test_meets_RegisterReadReturnsStartOfTickValue :
    Ready (reading 0 ok4) ∧ resetDue (reading 0 ok4) = false ∧ (reading 0 ok4).env.regReads = (0, 0) :: [] ∧
      0 ≤ (reading 0 ok4).env.now ∧ ∃ t, step (reading 0 ok4) = .next t :=
  ⟨by decide, rfl, rfl, Nat.le_refl 0, exists_next (by decide)⟩

/-- The last tick of F1, tick 4; and W1, a WAIT under NOTIFY_EN = 1, at its first and last tick after the acceptance. -/
theorem test_meets_StatusReadsBusyDuringOperation :
    NoReset (reading 4 ok4) ∧ (reading 4 ok4).env.regReads = [((reading 4 ok4).env.now + 4, 0)] ∧
      (∃ t, exec (.cmd 0x12) (reading 4 ok4) = .next t ∧ (reading 4 ok4).env.now + 4 < t.env.now) ∧
      ∀ k ∈ [1, 40], ∃ t, exec .wait (reading k (exWith [] (List.replicate 5 .high) [])) = .next t ∧ k < t.env.now :=
  ⟨rfl, rfl, exists_next_with (by decide), fun k hk => exists_next_with (by revert k; decide)⟩

/-- W1: STATUS reads 0x411 while the WAIT runs, NOTIFY among its bits; F1: 0x101 while the CMD runs. -/
theorem test_status_during_operation :
    (∀ k ∈ [1, 40], view (exec .wait (reading k (exWith [] (List.replicate 5 .high) []))) (fun t => t.env.regReplies) =
        some [⟨k, 0, 0x411⟩]) ∧
      view (exec (.cmd 0x12) (reading 4 ok4)) (fun t => t.env.regReplies) = some [⟨4, 0, 0x101⟩] := by decide

theorem test_meets_EveryOperationFinishesOnce :
    NoReset full10 ∧ ∃ t, exec (.packFull 10 3) full10 = .next t := ⟨rfl, exists_next (by decide)⟩

theorem test_meets_EveryReadyOperationCompletes :
    Ready written4 ∧ NoReset written4 ∧ (∀ k, k < (4#14).toNat → (written4.pbuf.read ((0#14).toNat + k)).isSome = true) ∧
      Ready full10 ∧ NoReset full10 ∧ SourceWritten full10 10 3 ∧ Ready sub10 ∧ NoReset sub10 ∧ SourceWritten sub10 16 2 :=
  ⟨by decide, rfl, by decide, by decide, rfl, sourceWritten_of (by decide), by decide, rfl, sourceWritten_of (by decide)⟩

/-- Each result of the statement. -/
theorem test_meets_ResultsByOperation :
    NoReset ok4 ∧ (∃ t, exec (.cmd 0x12) ok4 = .next t ∧ t.result = .ok) ∧
      (∃ t, exec .wait (exWith [] (List.replicate 5 .high) []) = .next t ∧ t.result = .timeout) ∧
      (∃ t, exec (.cmd 0x20) (failAt 2) = .next t ∧ t.result = .transportFailure) ∧
      (∃ t, exec (.datab 0 0) ok4 = .next t ∧ t.result = .invalidInput) :=
  ⟨rfl, exists_next_with (by decide), exists_next_with (by decide), exists_next_with (by decide),
    exists_next_with (by decide)⟩

/-- OK of a frame, of RSTP, of WAIT and of FILL; the other results as for ResultsByOperation. -/
theorem test_meets_OperationDurations :
    NoReset ok4 ∧ (∃ t, exec .rstp ok4 = .next t ∧ t.result = .ok) ∧
      (∃ t, exec .wait (exWith [] [.high, .low] []) = .next t ∧ t.result = .ok) ∧
      (∃ t, exec (.fill 0x5A) (ex10 []) = .next t ∧ t.result = .ok) :=
  ⟨rfl, exists_next_with (by decide), exists_next_with (by decide), exists_next_with (by decide)⟩

theorem test_meets_MemoriesStayCanonical :
    MemInv full10 ∧ ∃ t, step (full10.withFetchWord 32 0x60014003) = .next t :=
  ⟨by decide, exists_next (by decide)⟩

theorem test_meets_StepEndsIdle : IdleInv ok4 ∧ ∃ t, step (ok4.withFetchWord 32 0x10000012) = .next t :=
  ⟨by decide, exists_next (by decide)⟩

/-- A reset scheduled for tick r with configuration EX10. -/
def resetAt (r : Nat) : State := { ok4 with env := { ok4.env with resets := [(r, cfg10)] } }

/-- No reset scheduled, and one scheduled for later than the step. -/
theorem test_meets_ConfigurationFixedBetweenResets :
    NoReset State.reset ∧ (∃ t, step State.reset = .next t) ∧
      ∃ t, step (resetAt 5) = .next t ∧ t.env.resets = (resetAt 5).env.resets :=
  ⟨rfl, exists_next (by decide), exists_next_with (by decide)⟩

theorem test_meets_ResetTickGivesResetValues :
    legalCfg (resetAt 0).build (resetAt 0).cfg = true ∧
      (resetAt 0).env.resets = (0, cfg10) :: [] ∧ 0 ≤ (resetAt 0).env.now ∧ (resetAt 0).env.outstanding = none := by decide

/-- A reset that disturbs the operation (tick 2), one in its finishing tick (tick 4), where the reset wins (log 14), and one
in the tick after its finish (tick 5). -/
theorem test_meets_ResetAbandonsOperation :
    (resetAt 2).env.now < 2 ∧ (∃ t, exec (.cmd 0x12) (resetAt 2) = .next t ∧ t.result = .none ∧ t.env.now = 3) ∧
      (∃ t, exec (.cmd 0x12) (resetAt 4) = .next t ∧ t.result = .none ∧ t.env.now = 5) ∧
      (∃ t, exec (.cmd 0x12) (resetAt 5) = .next t ∧ t.result = .ok ∧ t.env.now = 5) :=
  ⟨by decide, exists_next_with (by decide), exists_next_with (by decide), exists_next_with (by decide)⟩

/-- A state in which FAULTED is set. -/
def faultedEx : State := { ok4 with faulted := true }

/-- A fault of a step and of an operation; a next state of an operation run, and of a reset taken, with FAULTED set. -/
theorem test_meets_FaultedIsNeverCleared :
    (∃ f, step ((ex10 []).withFetchWord 32 0x60014003) = .fault f) ∧ (∃ f, exec (.packFull 10 3) (ex10 []) = .fault f) ∧
      (∃ t, step (faultedEx.withFetchWord 32 0x10000012) = .next t ∧ t.faulted = true ∧ t.result = .ok) ∧
      ∃ t, step { faultedEx with env := { faultedEx.env with resets := [(0, cfg10)] } } = .next t ∧ t.faulted = true ∧
        t.cfg = cfg10 :=
  ⟨⟨_, rfl⟩, ⟨_, rfl⟩, exists_next_with (by decide), exists_next_with (by decide)⟩

/-- The pseudocode of R200: PST is P_RUN when SRC is read. The operation stays without a result and faults again in the next
tick (log 7). -/
theorem test_pack_unwritten :
    (match step ((ex10 []).withFetchWord 32 0x64018001) with
      | .fault f =>
        decide (f.left.packer = .pRun ∧ f.left.faulted = true ∧ f.left.result = .none ∧ f.left.pbuf = [] ∧
          f.left.env.now = 1) &&
        (match step f.left with
          | .fault g => decide (g.left.env.now = 2)
          | _ => false)
      | _ => false) = true := by decide

/-- Each condition of R23 broken: PW, PH and POLL_TICKS 0, a buffer of 4000 bytes in 3999, a grid of 249 columns, of 249
rows. -/
theorem test_meets_IllegalConfigurationIsRefused :
    ∀ p ∈ [(Build.ex, { Cfg.ex with pw := 0 }), (Build.ex, { Cfg.ex with ph := 0 }), (Build.ex, { Cfg.ex with pollTicks := 0 }),
        ({ Build.ex with pbufSize := 3999 }, Cfg.ex), ({ Build.ex with srcWMax := 249 }, Cfg.ex),
        ({ Build.ex with srcHMax := 249 }, Cfg.ex)],
      legalCfg p.1 p.2 = false ∧
        ¬ (1 ≤ p.2.pw.toNat ∧ 1 ≤ p.2.ph.toNat ∧ 1 ≤ p.2.pollTicks.toNat ∧
          (p.2.pw.toNat + 7) / 8 * p.2.ph.toNat ≤ p.1.pbufSize.toNat ∧
          max p.2.pw.toNat p.2.ph.toNat ≤ p.1.srcWMax.toNat ∧ max p.2.pw.toNat p.2.ph.toNat ≤ p.1.srcHMax.toNat) := by decide

theorem test_meets_IdleBlockWaits :
    Ready State.reset ∧ resetDue State.reset = false ∧ presentedWord State.reset = none ∧ State.reset.env.txns = [] ∧
      State.reset.env.regReads = [] := by decide

theorem test_meets_InitializationWords : Cfg.ex.pw = 122 ∧ Cfg.ex.ph = 250 := by decide

theorem test_meets_ClearWords :
    Cfg.ex.pw = 122 ∧ Cfg.ex.ph = 250 ∧ assembleAll [.fill (clearByte Cfg.ex true).toNat] = some [0x700000FF] := by decide

theorem test_meets_DrawWords :
    Cfg.ex.pw = 122 ∧ Cfg.ex.ph = 250 ∧ assembleAll (PseudoOp.expand .refreshFull) =
      some [0x10000022, 0x200000F7, 0x10000020, 0x40000000] := by decide

theorem test_meets_FilledBufferIsSentUniform :
    Ready ok4 ∧ NoReset ok4 ∧ ok4.env.answers = okAns :: okAns :: okAns :: okAns :: [] ∧ okAns.ok = true ∧
      (4000#14).toNat = (ok4.cfg.pw.toNat + 7) / 8 * ok4.cfg.ph.toNat := by decide

/-- S5: a 10 × 10 image at (120, 0) of the 122-wide panel; one pixel to the left of the edge it fits. -/
theorem test_meets_PartialDrawOutsidePanelRejected :
    windowOf Cfg.ex 120 0 10 10 = none ∧ windowOf Cfg.ex (-1) 0 10 10 = none ∧ windowOf Cfg.ex 0 0 0 10 = none ∧
      windowOf Cfg.ex 112 240 10 10 = some ⟨112, 240, 121, 249⟩ ∧
      ({ phase := Phase.ready, busOpen := true, machine := State.reset : Driver }).machine.cfg.pw = 122 := by decide

/-- A construction over EX. -/
def construction : Construction :=
  { dcName := "dc", csName := "cs", rstName := "rst", busyName := "busy", openOk := true, dcFound := true, csFound := true,
    rstFound := true, busyFound := true, cfg := Cfg.ex }

/-- A bus that does not open, a pin that is not found, and an initialization whose first request fails. -/
theorem test_meets_ConstructionOrder :
    ({ construction with openOk := false }).openOk = false ∧
      ({ construction with busyFound := false }).openOk = true ∧ pinNamesValid { construction with busyFound := false } = true ∧
      ({ construction with busyFound := false }).busyFound = false ∧
      (match hostConstruct construction (failAt 0) with
        | .failed e d => decide (e = .transportFailure ∧ d.busOpen = false)
        | _ => false) = true := by decide

/-- A handle in a phase. -/
def handle (p : Phase) (s : State) : Driver := { phase := p, busOpen := true, machine := s }

/-- Close after a Sleep that succeeds, that fails, and from Sleeping. -/
theorem test_meets_CloseReleasesTransport :
    (match hostClose (handle .ready (exWith (List.replicate 8 okAns) [] [])) with
        | .done d => decide (d.phase = .closed)
        | _ => false) = true ∧
      (match hostSleep (handle .ready (exWith (List.replicate 8 okAns) [] [])) with
        | .done d => decide (d.phase = .sleeping ∧ d.machine.env.reached = [0x10, 0x01])
        | _ => false) = true ∧
      (match hostSleep (handle .ready (failAt 0)) with
        | .failed e d => decide (e = .transportFailure ∧ d.phase = .ready)
        | _ => false) = true ∧
      (match hostClose (handle .sleeping State.reset) with
        | .done d => decide (d.busOpen = false)
        | _ => false) = true := by decide

/-- The four results. -/
theorem test_meets_ProgramStopsAtFirstFailure :
    AsmLine.assemble .wait = some 0x40000000 ∧ AsmLine.assemble (.cmd 0x20) = some 0x10000020 ∧
      AsmLine.assemble (.datab 0 0) = some 0x30000000 ∧
      (∃ t, step (hostPresent 0x40000000 (exWith [] (List.replicate 5 .high) [])) = .next t ∧ t.result = .timeout) ∧
      (∃ t, step (hostPresent 0x10000020 (failAt 0)) = .next t ∧ t.result = .transportFailure) ∧
      (∃ t, step (hostPresent 0x30000000 ok4) = .next t ∧ t.result = .invalidInput) ∧
      (∃ t, step (hostPresent 0x10000020 ok4) = .next t ∧ t.result = .ok) :=
  ⟨by decide, by decide, by decide, exists_next_with (by decide), exists_next_with (by decide), exists_next_with (by decide),
    exists_next_with (by decide)⟩

end Sys2Proof.Tests
end

section
/-! PROOF of O46 (10_state.md R22). The relation `ConfigKept s t` says what the way from `s` to `t` may do to the build, to
CFG and to the host's schedule of resets. It is reflexive and transitive, every tick is in it, and so every step is. That
the schedule only loses entries at its head is what makes it transitive: a schedule that is the same in the end was the same
all the way, so no reset was taken on the way. -/

namespace Sys2Proof.Machine

/-- From `s` to `t` the build stays, resets are only taken from the head of the host's schedule, and CFG stays if none is. -/
structure ConfigKept (s t : State) : Prop where
  build : t.build = s.build
  resets : t.env.resets <:+ s.env.resets
  cfg : t.env.resets = s.env.resets → t.cfg = s.cfg

/-- What touches neither the build nor CFG nor the schedule keeps the configuration. -/
theorem ConfigKept.of_eq {s t : State} (hb : t.build = s.build) (hc : t.cfg = s.cfg)
    (hr : t.env.resets = s.env.resets) : ConfigKept s t :=
  ⟨hb, hr ▸ List.suffix_rfl, fun _ => hc⟩

theorem ConfigKept.trans {s u t : State} (hu : ConfigKept s u) (ht : ConfigKept u t) : ConfigKept s t where
  build := ht.build.trans hu.build
  resets := ht.resets.trans hu.resets
  cfg he := by
    have hus : u.env.resets = s.env.resets := hu.resets.eq_of_length_le (he ▸ ht.resets.length_le)
    exact (ht.cfg (he.trans hus.symm)).trans (hu.cfg hus)

/-- Where the host has no reset scheduled, CFG stays and none is scheduled after. -/
theorem ConfigKept.of_noReset {s t : State} (h : ConfigKept s t) (hn : NoReset s) : t.cfg = s.cfg ∧ NoReset t := by
  have ht : NoReset t := List.suffix_nil.1 (hn ▸ h.resets)
  exact ⟨h.cfg (ht.trans hn.symm), ht⟩

theorem resetTick_build (s : State) : (resetTick s).build = s.build := by
  unfold resetTick
  split <;> rfl

/-- A reset tick takes the reset at the head of the schedule. -/
theorem resetTick_resets (s : State) : (resetTick s).env.resets = s.env.resets.tail := by
  cases h : s.env.resets with
  | nil => simp [resetTick, h]
  | cons r rest => simp [resetTick, resetBlock, h]

theorem resetTick_configKept (s : State) : ConfigKept s (resetTick s) := by
  refine ⟨resetTick_build s, resetTick_resets s ▸ List.tail_suffix _, fun he => ?_⟩
  rw [resetTick_resets] at he
  cases h : s.env.resets with
  | nil => simp [resetTick, h]
  | cons r rest =>
    rw [h, List.tail_cons] at he
    exact absurd he.symm (List.cons_ne_self r rest)

/-- A tick of a busy block takes a reset that is due, or leaves the configuration and the schedule alone. -/
theorem tick_configKept (s : State) : ConfigKept s (tick s) := by
  unfold tick
  split
  · exact resetTick_configKept s
  · exact .of_eq (by simp) (by simp) (by simp)

theorem complete_configKept (s : State) : ConfigKept s (complete s) :=
  complete_keeps (P := ConfigKept s) (fun u _ hu => hu.trans (tick_configKept u)) s (.of_eq rfl rfl rfl)

/-- What an operation does in its acceptance tick leaves the configuration and the schedule alone. -/
theorem Begun.configKept {a s1 : State} {i : Instr} (h : Begun a i s1) : ConfigKept a s1 := by
  cases h with
  | cmd | data | datab => exact .of_eq (startFrame_build ..) (startFrame_cfg ..) (startFrame_resets ..)
  | databInvalid | packFullInvalid | packSubInvalid => exact .of_eq rfl rfl rfl
  | wait => exact .of_eq (by simp) (by simp) (by simp)
  | rstp => exact .of_eq (startPulse_build ..) (startPulse_cfg ..) (startPulse_resets ..)
  | packFull | packSub | fill => exact .of_eq (startPack_build ..) (startPack_cfg ..) (startPack_resets ..)

theorem exec_configKept {i : Instr} {s t : State} (h : exec i s = .next t) : ConfigKept s t := by
  have haccept : ConfigKept s (accept (encode i) (readPort s)) := .of_eq (by simp) (by simp) (by simp)
  exact exec_keeps h (fun s1 hs => (haccept.trans hs.configKept).trans (.of_eq rfl rfl rfl))
    (fun u _ hu => hu.trans (tick_configKept u))

theorem PortMove.configKept {s s1 : State} (h : PortMove s s1) : ConfigKept s s1 := by
  obtain ⟨txns, replies, hf⟩ := h.frame
  rw [hf]
  exact .of_eq rfl rfl rfl

theorem Stepped.configKept {s t : State} (h : Stepped s t) : ConfigKept s t := by
  have hread (u : State) : ConfigKept u (readPort u) := .of_eq (by simp) (by simp) (by simp)
  cases h with
  | reset => exact resetTick_configKept s
  | resumed => exact complete_configKept s
  | idle _ _ _ s1 hm => exact ((hread s).trans (memPort_move hm).configKept).trans (.of_eq rfl rfl rfl)
  | op _ _ _ _ _ _ _ ht => exact ConfigKept.trans (u := takeWord s) (.of_eq rfl rfl rfl) (exec_configKept ht)
  | illegal => exact .of_eq (by simp) (by simp) (by simp)

/-- Settles O46: every way a step can answer a next state keeps the configuration unless it takes a reset. -/
theorem configurationFixedBetweenResets : Obligations.ConfigurationFixedBetweenResets := by
  unfold Obligations.ConfigurationFixedBetweenResets
  intro s t h
  have hk : ConfigKept s t := (step_next h).2.configKept
  exact ⟨hk.build, hk.cfg, hk.of_noReset⟩

end Sys2Proof.Machine
end

section
/-! PROOF of O32 (20_memory.md R65). A step in which the memory port serves `x` is `performTxn x` on the state with `x` handed
over, and one end of a tick; and `performTxn` is one answer with MERR out of range, one without it in range. -/

namespace Sys2Proof.Machine

/-! ### A transaction in range, and out of range -/

/-- The memories have the byte or the cell the transaction names (20_memory.md R60, R62). -/
def MemTxn.inRange (b : Build) : MemTxn → Bool
  | .pbWr a _ | .pbRd a => pbufInRange b a
  | .srcWr x y _ | .srcWrRgb x y _ _ _ | .srcRd x y => srcInRange b x y

/-- What the port returns for a transaction out of range: 0 for a read, nothing for a write (R65). -/
def MemTxn.dataOutOfRange : MemTxn → Option Byte
  | .pbRd _ | .srcRd _ _ => some 0
  | .pbWr _ _ | .srcWr _ _ _ | .srcWrRgb _ _ _ _ _ => none

theorem pbufInRange_iff {b : Build} {a : Nat} : pbufInRange b a = true ↔ a < b.pbufSize.toNat := decide_eq_true_iff

theorem srcInRange_iff {b : Build} {x y : Nat} :
    srcInRange b x y = true ↔ x < b.srcWMax.toNat ∧ y < b.srcHMax.toNat := by simp [srcInRange]

theorem pbufInRange_eq_false_iff {b : Build} {a : Nat} : pbufInRange b a = false ↔ b.pbufSize.toNat ≤ a := by
  simp [pbufInRange]

theorem srcInRange_eq_false_iff {b : Build} {x y : Nat} :
    srcInRange b x y = false ↔ b.srcWMax.toNat ≤ x ∨ b.srcHMax.toNat ≤ y := by
  rw [← Bool.not_eq_true, srcInRange_iff, not_and_or, not_lt, not_lt]

/-- Out of range the port only answers, with MERR (R65). -/
theorem performTxn_outOfRange {x : MemTxn} {s : State} (h : x.inRange s.build = false) :
    performTxn x s = .ok (replyMem x.dataOutOfRange true s) := by
  cases x with
  | pbWr a v | pbRd a =>
    have hr : pbufInRange s.build a = false := h
    simp [performTxn, hr, MemTxn.dataOutOfRange]
  | srcWr u v d | srcWrRgb u v r g b | srcRd u v =>
    have hr : srcInRange s.build u v = false := h
    simp [performTxn, writeSrc, hr, MemTxn.dataOutOfRange]

/-- In range a transaction that is answered is answered without MERR (R65). -/
theorem performTxn_inRange_memReplies {x : MemTxn} {s s1 : State} (hr : x.inRange s.build = true)
    (h : performTxn x s = .ok s1) :
    ∃ data, s1.env.memReplies = s.env.memReplies ++ [⟨s.env.now, data, false⟩] := by
  cases x with
  | pbWr a v =>
    have ha : pbufInRange s.build a = true := hr
    simp only [performTxn, ha, if_true, Except.ok.injEq] at h
    exact ⟨none, h ▸ rfl⟩
  | pbRd a =>
    have ha : pbufInRange s.build a = true := hr
    cases hv : s.pbuf.read a with
    | none => simp [performTxn, ha, hv] at h
    | some v =>
      simp only [performTxn, ha, hv, if_true, Except.ok.injEq] at h
      exact ⟨some v, h ▸ rfl⟩
  | srcWr u v d | srcWrRgb u v r g b =>
    have huv : srcInRange s.build u v = true := hr
    simp only [performTxn, writeSrc, huv, if_true, Except.ok.injEq] at h
    exact ⟨none, h ▸ rfl⟩
  | srcRd u v =>
    have huv : srcInRange s.build u v = true := hr
    cases hd : s.src.read (srcKey u v) with
    | none => simp [performTxn, huv, hd] at h
    | some d =>
      simp only [performTxn, huv, hd, if_true, Except.ok.injEq] at h
      exact ⟨some (darkByteOf d), h ▸ rfl⟩

/-! ### A step that serves a transaction -/

/-- The state in which the port performs the transaction at its head: the register port has had its part of the tick and
the host has handed the transaction over. -/
def handOver (s : State) : State := { readPort s with env := { (readPort s).env with txns := s.env.txns.tail } }

@[simp] theorem handOver_build (s : State) : (handOver s).build = s.build := readPort_build s
@[simp] theorem handOver_pbuf (s : State) : (handOver s).pbuf = s.pbuf := readPort_pbuf s
@[simp] theorem handOver_src (s : State) : (handOver s).src = s.src := readPort_src s
@[simp] theorem handOver_now (s : State) : (handOver s).env.now = s.env.now := readPort_now s
@[simp] theorem handOver_txns (s : State) : (handOver s).env.txns = s.env.txns.tail := rfl
@[simp] theorem handOver_memReplies (s : State) : (handOver s).env.memReplies = s.env.memReplies := readPort_memReplies s

theorem memPort_readPort_of_portServes {s : State} {x : MemTxn} (h : PortServes s x) :
    memPort (readPort s) = performTxn x (handOver s) := by
  obtain ⟨-, -, -, t, rest, ht, hle⟩ := h
  simp [memPort, handOver, ht, hle]

/-- A tick in which the port serves a transaction that it answers is the transaction and the end of the tick. -/
theorem step_of_performTxn_ok {s s1 : State} {x : MemTxn} (h : PortServes s x) (hx : performTxn x (handOver s) = .ok s1) :
    step s = .next (endTick s1) := by
  have hm := (memPort_readPort_of_portServes h).trans hx
  obtain ⟨⟨hlegal, hidle⟩, hreset, hword, -⟩ := h
  simp [step, hlegal, hidle, hreset, hword, idleTick, hm]

/-- A next state of a tick in which the port serves a transaction is one its answer leaves. -/
theorem performTxn_ok_of_step {s t : State} {x : MemTxn} (h : PortServes s x) (ht : step s = .next t) :
    ∃ s1, performTxn x (handOver s) = .ok s1 ∧ t = endTick s1 := by
  have hm := memPort_readPort_of_portServes h
  obtain ⟨⟨-, hidle⟩, hreset, hword, -⟩ := h
  cases (step_next ht).2 with
  | reset hd => simp [hreset] at hd
  | resumed _ ho => simp [hidle] at ho
  | idle _ _ _ s1 hs1 => exact ⟨s1, hm.symm.trans hs1, rfl⟩
  | op _ _ w _ hw => simp [hword] at hw
  | illegal _ _ w hw => simp [hword] at hw

/-- The register port moves nothing but its own lists (10_state.md R32). -/
theorem readPort_eq_env (s : State) : readPort s = { s with env := (readPort s).env } := by
  unfold readPort
  (repeat' split) <;> rfl

/-- Whatever the memory port does in a tick, everything else is as `OnlyPortsMoved` says (20_memory.md R64). -/
theorem PortMove.onlyPortsMoved {s s1 : State} (h : PortMove (readPort s) s1) : OnlyPortsMoved s (endTick s1) := by
  obtain ⟨txns, replies, hframe⟩ := h.frame
  rw [readPort_eq_env s] at hframe
  rw [hframe]
  simp [OnlyPortsMoved, endTick]

/-- A tick in which the port serves a transaction moves nothing but the memories and the ports. -/
theorem onlyPortsMoved_of_performTxn {s s1 : State} {x : MemTxn} (h : PortServes s x)
    (hx : performTxn x (handOver s) = .ok s1) : OnlyPortsMoved s (endTick s1) :=
  (memPort_move ((memPort_readPort_of_portServes h).trans hx)).onlyPortsMoved

/-! ### R65 -/

/-- A tick in which the port serves a transaction out of range. -/
theorem step_outOfRange {s : State} {x : MemTxn} (h : PortServes s x) (hr : x.inRange s.build = false) :
    step s = .next (endTick (replyMem x.dataOutOfRange true (handOver s))) ∧
      OnlyPortsMoved s (endTick (replyMem x.dataOutOfRange true (handOver s))) := by
  have hx := performTxn_outOfRange (s := handOver s) (x := x) (by simpa using hr)
  exact ⟨step_of_performTxn_ok h hx, onlyPortsMoved_of_performTxn h hx⟩

/-- A tick in which the port answers a transaction in range. -/
theorem step_inRange_memReplies {s t : State} {x : MemTxn} (h : PortServes s x) (hr : x.inRange s.build = true)
    (ht : step s = .next t) : ∃ data, t.env.memReplies = s.env.memReplies ++ [⟨s.env.now, data, false⟩] := by
  obtain ⟨s1, hs1, rfl⟩ := performTxn_ok_of_step h ht
  simpa using performTxn_inRange_memReplies (by simpa using hr) hs1

/-- Settles O32: out of range `performTxn` is its answer alone, in range every answer it gives is without MERR, and the rest
of the tick is the frame of the memory port. -/
theorem outOfRangeTransactionHasNoEffect : Obligations.OutOfRangeTransactionHasNoEffect := by
  unfold Obligations.OutOfRangeTransactionHasNoEffect
  refine ⟨fun s x data hs hx => ?_, fun s t x hs ht hx => ?_⟩
  · have hout : x.inRange s.build = false ∧ data = x.dataOutOfRange := by
      obtain ⟨a, v, rfl, hr, rfl⟩ | ⟨a, rfl, hr, rfl⟩ | ⟨u, v, d, rfl, hr, rfl⟩ | ⟨u, v, r, g, b, rfl, hr, rfl⟩ |
        ⟨u, v, rfl, hr, rfl⟩ := hx
      · exact ⟨pbufInRange_eq_false_iff.2 hr, rfl⟩
      · exact ⟨pbufInRange_eq_false_iff.2 hr, rfl⟩
      all_goals exact ⟨srcInRange_eq_false_iff.2 hr, rfl⟩
    obtain ⟨hr, rfl⟩ := hout
    obtain ⟨hstep, hframe⟩ := step_outOfRange hs hr
    exact ⟨_, hstep, by simp, by simp, by simp, by simp, hframe⟩
  · have hin : x.inRange s.build = true := by
      obtain ⟨a, rfl | ⟨v, rfl⟩, hr⟩ | ⟨u, v, rfl | ⟨d, rfl⟩ | ⟨r, g, b, rfl⟩, hr⟩ := hx
      · exact pbufInRange_iff.2 hr
      · exact pbufInRange_iff.2 hr
      all_goals exact srcInRange_iff.2 hr
    exact step_inRange_memReplies hs hin ht

end Sys2Proof.Machine
end

section
/-! PROOF of O29 (42_packer.md R206). The light byte has in every bit `bitval` of a light pixel; the dark byte is its
complement, as `bitval` of a dark pixel is that of `bitval` of a light one. -/

namespace Sys2Proof.Machine

/-- R193: under either polarity a dark pixel's bit is the other one. -/
theorem bitval_true (p : Polarity) : bitval p true = !bitval p false := by cases p <;> rfl

/-- Subtracting from `0xFF` complements every bit. -/
theorem darkByte_eq_not_lightByte (p : Polarity) : darkByte p = ~~~lightByte p :=
  BitVec.allOnes_sub_eq_not _

theorem lightByte_getLsbD (p : Polarity) {k : Nat} (hk : k < 8) : (lightByte p).getLsbD k = bitval p false := by
  cases p with
  | darkIsOne => exact BitVec.getLsbD_zero
  | lightIsOne =>
    calc (lightByte .lightIsOne).getLsbD k
      _ = (BitVec.allOnes 8).getLsbD k := rfl
      _ = decide (k < 8) := BitVec.getLsbD_allOnes
      _ = bitval .lightIsOne false := decide_eq_true hk

theorem darkByte_getLsbD (p : Polarity) {k : Nat} (hk : k < 8) : (darkByte p).getLsbD k = bitval p true := by
  rw [darkByte_eq_not_lightByte, bitval_true, BitVec.getLsbD_not, lightByte_getLsbD p hk]
  simp [hk]

/-- Settles O29: the four values are computed, and the bits are those of the light byte and of its complement. -/
theorem lightAndDarkBytes : Obligations.LightAndDarkBytes := by
  unfold Obligations.LightAndDarkBytes
  exact ⟨by decide, fun p k hk => ⟨lightByte_getLsbD p hk, darkByte_getLsbD p hk⟩⟩

end Sys2Proof.Machine
end

section
/-! PROOF of O2, O3 and O5 (30_encoding.md sections 2 to 5). `decode` and `encode` meet through the fields of a word: an
operation's word has the fields of `Laws/Encoding.lean`, and a legal word is the sum of its fields. -/

namespace Sys2Proof

/-! ### The two round trips -/

/-- The decoder reads every operation back from its own word. -/
@[simp] theorem decode_encode (i : Instr) : decode (encode i) = some i := by
  cases i <;> simp [decode]

/-- A word fits the 32 bits the opcode table gives an operation. -/
theorem decodeTableWord_toNat (w : Word) : decodeTableWord 32 w.toNat = decode w := by
  simp [decodeTableWord, w.isLt]

/-- Settles O2: by cases on the operation, from the fields of its word. -/
theorem encodedOperationDecodes : Obligations.EncodedOperationDecodes := by
  unfold Obligations.EncodedOperationDecodes
  exact fun i => ⟨decode_encode i, (decodeTableWord_toNat _).trans (decode_encode i)⟩

theorem fieldOp_eq_iff {w : Word} {k : BitVec 4} : fieldOp w = k ↔ w.toNat / 2 ^ 28 = k.toNat := by
  rw [← BitVec.toNat_inj, fieldOp_toNat]

theorem fieldZeroB_eq_iff {w : Word} : fieldZeroB w = 0 ↔ w.toNat / 2 ^ 8 % 2 ^ 20 = 0 := by
  rw [← BitVec.toNat_inj, fieldZeroB_toNat]; rfl

theorem fieldZeroZ_eq_iff {w : Word} : fieldZeroZ w = 0 ↔ w.toNat % 2 ^ 28 = 0 := by
  rw [← BitVec.toNat_inj, fieldZeroZ_toNat]; rfl

theorem fieldZeroP_eq_iff {w : Word} : fieldZeroP w = 0 ↔ w.toNat / 2 ^ 27 % 2 = 0 := by
  rw [← BitVec.toNat_inj, fieldZeroP_toNat]; rfl

theorem fieldMode_eq_iff {w : Word} : fieldMode w = 0 ↔ w.toNat / 2 ^ 26 % 2 = 0 := by
  rw [← BitVec.toNat_inj, fieldMode_toNat]; rfl

/-- The legal words as numbers: what a word that decodes has in OP and in its must-be-zero bits. -/
inductive Legal (w : Word) : Instr → Prop where
  | cmd (ho : w.toNat / 2 ^ 28 = 1) (hz : w.toNat / 2 ^ 8 % 2 ^ 20 = 0) : Legal w (.cmd (fieldByte w))
  | data (ho : w.toNat / 2 ^ 28 = 2) (hz : w.toNat / 2 ^ 8 % 2 ^ 20 = 0) : Legal w (.data (fieldByte w))
  | datab (ho : w.toNat / 2 ^ 28 = 3) : Legal w (.datab (fieldLen w) (fieldAddr w))
  | wait (ho : w.toNat / 2 ^ 28 = 4) (hz : w.toNat % 2 ^ 28 = 0) : Legal w .wait
  | rstp (ho : w.toNat / 2 ^ 28 = 5) (hz : w.toNat % 2 ^ 28 = 0) : Legal w .rstp
  | packFull (ho : w.toNat / 2 ^ 28 = 6) (hz : w.toNat / 2 ^ 27 % 2 = 0) (hm : w.toNat / 2 ^ 26 % 2 = 0) :
      Legal w (.packFull (fieldW w) (fieldH w))
  | packSub (ho : w.toNat / 2 ^ 28 = 6) (hz : w.toNat / 2 ^ 27 % 2 = 0) (hm : w.toNat / 2 ^ 26 % 2 ≠ 0) :
      Legal w (.packSub (fieldW w) (fieldH w))
  | fill (ho : w.toNat / 2 ^ 28 = 7) (hz : w.toNat / 2 ^ 8 % 2 ^ 20 = 0) : Legal w (.fill (fieldByte w))

theorem legal_of_decode {w : Word} {i : Instr} (h : decode w = some i) : Legal w i := by
  simp only [decode, fieldOp_eq_iff, fieldZeroB_eq_iff, fieldZeroZ_eq_iff, fieldZeroP_eq_iff, fieldMode_eq_iff] at h
  split_ifs at h <;> cases h
  · exact .cmd ‹_› ‹_›
  · exact .data ‹_› ‹_›
  · exact .datab ‹_›
  · exact .wait ‹_› ‹_›
  · exact .rstp ‹_› ‹_›
  · exact .packFull ‹_› ‹_› ‹_›
  · exact .packSub ‹_› ‹_› ‹_›
  · exact .fill ‹_› ‹_›

theorem encode_wait_toNat : (encode .wait).toNat = 4 * 2 ^ 28 := by decide

theorem encode_rstp_toNat : (encode .rstp).toNat = 5 * 2 ^ 28 := by decide

/-- A legal word is the word of its operation: both are the sum of the same fields. -/
theorem Legal.encode_eq {w : Word} {i : Instr} (h : Legal w i) : encode i = w := by
  have hw := w.isLt
  apply BitVec.eq_of_toNat_eq
  cases h with
  | cmd ho hz => rw [encode_cmd_toNat, fieldByte_toNat]; omega
  | data ho hz => rw [encode_data_toNat, fieldByte_toNat]; omega
  | datab ho => rw [encode_datab_toNat, fieldLen_toNat, fieldAddr_toNat]; omega
  | wait ho hz => rw [encode_wait_toNat]; omega
  | rstp ho hz => rw [encode_rstp_toNat]; omega
  | packFull ho hz hm => rw [encode_packFull_toNat, fieldW_toNat, fieldH_toNat]; omega
  | packSub ho hz hm => rw [encode_packSub_toNat, fieldW_toNat, fieldH_toNat]; omega
  | fill ho hz => rw [encode_fill_toNat, fieldByte_toNat]; omega

/-- Settles O3: a word that decodes is the sum of the fields the decoder read. -/
theorem decodedWordIsEncoded : Obligations.DecodedWordIsEncoded := by
  unfold Obligations.DecodedWordIsEncoded
  exact fun w i h => (legal_of_decode h).encode_eq

/-! ### The words of the assembly lines -/

/-- The bits of a field are below those of the opcode. -/
theorem or_eq_add {n c b : Nat} (hc : c % 2 ^ n = 0) (hb : b < 2 ^ n) : c ||| b = c + b := by
  obtain ⟨m, rfl⟩ := Nat.dvd_of_mod_eq_zero hc
  exact (Nat.two_pow_add_eq_or_of_lt hb m).symm

/-- An opcode and two operand fields, the lower one of `n` bits. -/
theorem or_shiftLeft_or_eq_add {n m c a b : Nat} (hc : c % 2 ^ m = 0) (hnm : n ≤ m) (ha : a <<< n < 2 ^ m) (hb : b < 2 ^ n) :
    c ||| a <<< n ||| b = c + a * 2 ^ n + b := by
  have hsum : (c + a * 2 ^ n) % 2 ^ n = 0 := by
    rw [Nat.add_mul_mod_self_right]
    exact Nat.mod_eq_zero_of_dvd ((Nat.pow_dvd_pow 2 hnm).trans (Nat.dvd_of_mod_eq_zero hc))
  rw [or_eq_add hc ha, Nat.shiftLeft_eq, or_eq_add hsum hb]

theorem encode_cmd_ofNat {b : Nat} (hb : b ≤ 255) :
    encode (.cmd (BitVec.ofNat 8 b)) = BitVec.ofNat 32 (0x10000000 ||| b) := by
  apply BitVec.eq_of_toNat_eq
  rw [encode_cmd_toNat, or_eq_add (n := 8) rfl (by omega), BitVec.toNat_ofNat, BitVec.toNat_ofNat]
  omega

theorem encode_data_ofNat {b : Nat} (hb : b ≤ 255) :
    encode (.data (BitVec.ofNat 8 b)) = BitVec.ofNat 32 (0x20000000 ||| b) := by
  apply BitVec.eq_of_toNat_eq
  rw [encode_data_toNat, or_eq_add (n := 8) rfl (by omega), BitVec.toNat_ofNat, BitVec.toNat_ofNat]
  omega

theorem encode_fill_ofNat {b : Nat} (hb : b ≤ 255) :
    encode (.fill (BitVec.ofNat 8 b)) = BitVec.ofNat 32 (0x70000000 ||| b) := by
  apply BitVec.eq_of_toNat_eq
  rw [encode_fill_toNat, or_eq_add (n := 8) rfl (by omega), BitVec.toNat_ofNat, BitVec.toNat_ofNat]
  omega

theorem encode_datab_ofNat {addr len : Nat} (ha : addr ≤ 16383) (hl : len ≤ 16383) :
    encode (.datab (BitVec.ofNat 14 len) (BitVec.ofNat 14 addr)) =
      BitVec.ofNat 32 (0x30000000 ||| len <<< 14 ||| addr) := by
  apply BitVec.eq_of_toNat_eq
  rw [encode_datab_toNat, or_shiftLeft_or_eq_add (m := 28) rfl (by decide) (by rw [Nat.shiftLeft_eq]; omega) (by omega),
    BitVec.toNat_ofNat, BitVec.toNat_ofNat, BitVec.toNat_ofNat]
  omega

theorem encode_packFull_ofNat {w h : Nat} (hw : w ≤ 8191) (hh : h ≤ 8191) :
    encode (.packFull (BitVec.ofNat 13 w) (BitVec.ofNat 13 h)) =
      BitVec.ofNat 32 (0x60000000 ||| w <<< 13 ||| h) := by
  apply BitVec.eq_of_toNat_eq
  rw [encode_packFull_toNat, or_shiftLeft_or_eq_add (m := 26) rfl (by decide) (by rw [Nat.shiftLeft_eq]; omega) (by omega),
    BitVec.toNat_ofNat, BitVec.toNat_ofNat, BitVec.toNat_ofNat]
  omega

theorem encode_packSub_ofNat {w h : Nat} (hw : w ≤ 8191) (hh : h ≤ 8191) :
    encode (.packSub (BitVec.ofNat 13 w) (BitVec.ofNat 13 h)) =
      BitVec.ofNat 32 (0x64000000 ||| w <<< 13 ||| h) := by
  apply BitVec.eq_of_toNat_eq
  rw [encode_packSub_toNat, or_shiftLeft_or_eq_add (m := 26) rfl (by decide) (by rw [Nat.shiftLeft_eq]; omega) (by omega),
    BitVec.toNat_ofNat, BitVec.toNat_ofNat, BitVec.toNat_ofNat]
  omega

/-- A line with an operand that does not fit has no word (R98). -/
theorem assemble_of_not_wellFormed {l : AsmLine} (h : l.wellFormed = false) : l.assemble = none := by
  simp [AsmLine.assemble, h]

/-- Settles O5: a well-formed line has the word `encode` gives its operands, and the others are rejected. -/
theorem assemblyLineWords : Obligations.AssemblyLineWords := by
  unfold Obligations.AssemblyLineWords
  refine ⟨fun b hb => ?_, fun addr len ha hl => ?_, fun w h hw hh => ?_, by decide, by decide, fun n hn => ?_,
    fun n hn => ?_, fun b hb => ?_, fun addr len h => ?_, fun w h hwh => ?_⟩
  · simp only [AsmLine.assemble, AsmLine.wellFormed, hb, decide_true, if_true, encode_cmd_ofNat, encode_data_ofNat,
      encode_fill_ofNat, and_self]
  · simp only [AsmLine.assemble, AsmLine.wellFormed, ha, hl, decide_true, Bool.and_self, if_true, encode_datab_ofNat]
  · simp only [AsmLine.assemble, AsmLine.wellFormed, hw, hh, decide_true, Bool.and_self, if_true, encode_packFull_ofNat,
      encode_packSub_ofNat, and_self]
  · have hlt : n < 4294967296 := hn
    simp only [AsmLine.assemble, AsmLine.wellFormed, hlt, decide_true, if_true]
  · exact assemble_of_not_wellFormed (by simpa [AsmLine.wellFormed] using hn)
  · refine ⟨?_, ?_, ?_⟩ <;> exact assemble_of_not_wellFormed (by simpa [AsmLine.wellFormed] using hb)
  · exact assemble_of_not_wellFormed (by simp [AsmLine.wellFormed]; omega)
  · refine ⟨?_, ?_⟩ <;> exact assemble_of_not_wellFormed (by simp [AsmLine.wellFormed]; omega)

end Sys2Proof
end

section
/-! The ticks and the acceptance of an operation once more, as the invariants below need them: which engine runs, and what
begins leaves the memories alone. -/

namespace Sys2Proof.Machine

/-- Which engine does its tick, by the operation in progress (30_encoding.md R93). -/
theorem engineTick_byOp (s : State) :
    (FramerOp s.curOp ∧ engineTick s = framerTick s) ∨ (fieldOp s.curOp = 4 ∧ engineTick s = waitTick s) ∨
      (PackerOp s.curOp ∧ engineTick s = packTick s) ∨
      (¬ FramerOp s.curOp ∧ fieldOp s.curOp ≠ 4 ∧ engineTick s = finish .illegalOp s) := by
  by_cases hf : FramerOp s.curOp
  · exact .inl ⟨hf, engineTick_framer hf⟩
  by_cases hw : fieldOp s.curOp = 4
  · exact .inr (.inl ⟨hw, engineTick_wait hw⟩)
  by_cases hp : PackerOp s.curOp
  · exact .inr (.inr (.inl ⟨hp, engineTick_packer hp⟩))
  refine .inr (.inr (.inr ⟨hf, hw, ?_⟩))
  simp only [FramerOp, PackerOp, ← BitVec.toNat_inj, BitVec.reduceToNat] at hf hw hp
  unfold engineTick
  split <;> simp_all

/-- The state in which the framer decides on its next move in a tick: its request has returned, or there was none. The
framer's own state and count may have moved. -/
inductive Decides (s : State) : State → Prop where
  | counting (st : FramerState) (c : BitVec 32) (ho : s.env.outstanding = none) :
      Decides s { s with framer := st, fcnt := c }
  | replied (o : Outstanding) (st : FramerState) (c : BitVec 32) :
      Decides s { takeReply o s with framer := st, fcnt := c }

/-- Everything the framer can do in a tick: wait for the request outstanding, count or enter a hold, issue a request, or
finish the operation (40_framer.md R121, R123, R140). -/
inductive FramerMove (s : State) : State → Prop where
  | awaits (o : Outstanding) : FramerMove s { s with env := { s.env with outstanding := some o } }
  | holds (u : State) (hu : Decides s u) : FramerMove s u
  | issues (st : FramerState) (q : Request) (u : State) (hu : Decides s u) : FramerMove s (issue st q u)
  | finishes (code : Result) (hc : code = .ok ∨ code = .transportFailure) (u : State) (hu : Decides s u) :
      FramerMove s (finish code u)

theorem Decides.outstanding {s u : State} (h : Decides s u) : u.env.outstanding = none := by
  cases h with
  | counting st c ho => exact ho
  | replied o st c => exact takeReply_outstanding o s

theorem Decides.set {s u : State} (h : Decides s u) (st : FramerState) (c : BitVec 32) :
    Decides s { u with framer := st, fcnt := c } := by
  cases h with
  | counting _ _ ho => exact .counting st c ho
  | replied o => exact .replied o st c

theorem Decides.holdDone {s u : State} (h : Decides s u) : FramerMove s (holdDone u) := by
  obtain ⟨st, q, he⟩ | he | he := holdDone_cases u <;> rw [he]
  · exact .issues st q u h
  · exact .finishes .ok (.inl rfl) u h
  · exact .holds u h

theorem Decides.startHold {s u : State} (h : Decides s u) (st : FramerState) : FramerMove s (startHold st u) := by
  obtain he | he := startHold_cases st u <;> rw [he]
  · exact (h.set st 0).holdDone
  · exact .holds _ (h.set st 0)

theorem Decides.framerNext {s u : State} (h : Decides s u) : FramerMove s (framerNext u) := by
  obtain ⟨st, q, he⟩ | he | ⟨st, he⟩ | he := framerNext_cases u <;> rw [he]
  · exact .issues st q u h
  · exact .finishes .ok (.inl rfl) u h
  · exact h.startHold st
  · exact .holds u h

theorem framerTick_move (s : State) : FramerMove s (framerTick s) := by
  unfold framerTick
  split
  next o _ =>
    have hr : Decides s (takeReply o s) := .replied o _ _
    split
    · unfold replyArrives
      split
      · exact hr.framerNext
      · exact .finishes .transportFailure (.inr rfl) _ hr
    · exact .awaits _
  next ho =>
    have hc (c : BitVec 32) : Decides s { s with fcnt := c } := .counting s.framer c ho
    obtain he | he | he := holdTick_cases s <;> rw [he]
    · exact .holds _ (hc s.fcnt)
    · exact .holds _ (hc _)
    · exact (hc _).holdDone

theorem not_framerOp_of_wait {w : Word} (h : fieldOp w = 4) : ¬ FramerOp w := by simp [FramerOp, h]

theorem not_framerOp_of_packer {w : Word} (h : PackerOp w) : ¬ FramerOp w := by
  rcases h with h | h <;> simp [FramerOp, h]

theorem fieldOp_ne_wait_of_framer {w : Word} (h : FramerOp w) : fieldOp w ≠ 4 := by
  rcases h with h | h | h | h <;> simp [h]

theorem fieldOp_ne_wait_of_packer {w : Word} (h : PackerOp w) : fieldOp w ≠ 4 := by
  rcases h with h | h <;> simp [h]

/-- A reset that is due is the one at the head of the schedule. -/
theorem resets_of_resetDue {s : State} (h : resetDue s = true) :
    ∃ r c rest, s.env.resets = (r, c) :: rest ∧ r ≤ s.env.now := by
  cases hr : s.env.resets with
  | nil => simp [resetDue, hr] at h
  | cons x rest => exact ⟨x.1, x.2, rest, rfl, by simpa [resetDue, hr] using h⟩

/-- The state after a tick in which the reset at the head of the schedule is asserted. -/
theorem resetTick_cons {s : State} {r : Nat} {c : Cfg} {rest : List (Nat × Cfg)} (h : s.env.resets = (r, c) :: rest) :
    resetTick s = endTick (resetBlock c { s with env := { s.env with resets := rest } }) := by
  simp [resetTick, h]

end Sys2Proof.Machine
end

section
/-! PROOF of O43 (20_memory.md R60, R62). PBUF is written by the memory port, a byte in range, and by the packer, the bytes
below `fullLen`, which a legal configuration keeps within PBUF_SIZE; SRC by the memory port alone. The run of an operation
therefore carries that bound along while it is in progress. -/

namespace Sys2Proof.Machine

/-- What leaves the memories and their sizes alone keeps their form. -/
theorem MemInv.of_eq {s t : State} (h : MemInv s) (hb : t.build = s.build) (hp : t.pbuf = s.pbuf)
    (hs : t.src = s.src) : MemInv t := by
  unfold MemInv at *
  rwa [hb, hp, hs]

theorem MemInv.setLow {s t : State} {n : Nat} {f : Nat → Byte} (h : MemInv s) (hn : n ≤ s.build.pbufSize.toNat)
    (hb : t.build = s.build) (hp : t.pbuf = s.pbuf.setLow n f) (hs : t.src = s.src) : MemInv t := by
  obtain ⟨hpw, hsw, hpr, hsr⟩ := h
  refine ⟨hp ▸ Memory.wf_setLow hpw n f, hs ▸ hsw, fun c hc => ?_, by rw [hb, hs]; exact hsr⟩
  rw [hp] at hc
  rw [hb]
  rcases Memory.mem_setLow hc with hlt | hold
  · omega
  · exact hpr c hold

/-- The keys of the cells of the grid (20_memory.md R62). -/
theorem srcKey_mod {x y : Nat} (hx : x < 8192) : srcKey x y % 8192 = x := by unfold srcKey; omega
theorem srcKey_div {x y : Nat} (hx : x < 8192) : srcKey x y / 8192 = y := by unfold srcKey; omega

/-- What the memory port does keeps the form of the memories. -/
theorem MemInv.portMove {s s1 : State} (h : MemInv s) (hm : PortMove s s1) : MemInv s1 := by
  obtain ⟨hpw, hsw, hpr, hsr⟩ := h
  have hb : s1.build = s.build := by obtain ⟨txns, replies, hf⟩ := hm.frame; rw [hf]
  have hpbuf : s1.pbuf.wf ∧ ∀ c ∈ s1.pbuf, c.1 < s.build.pbufSize.toNat := by
    rcases hm.pbuf with hp | ⟨a, v, ha, hp⟩
    · exact hp ▸ ⟨hpw, hpr⟩
    · rw [hp]
      refine ⟨Memory.wf_write hpw a v, fun c hc => ?_⟩
      rcases Memory.mem_write hc with rfl | hold
      · exact ha
      · exact hpr c hold
  have hsrc : s1.src.wf ∧ ∀ c ∈ s1.src, c.1 % 8192 < s.build.srcWMax.toNat ∧ c.1 / 8192 < s.build.srcHMax.toNat := by
    rcases hm.src with hs | ⟨x, y, d, hx, hy, hs⟩
    · exact hs ▸ ⟨hsw, hsr⟩
    · rw [hs]
      refine ⟨Memory.wf_write hsw _ d, fun c hc => ?_⟩
      rcases Memory.mem_write hc with rfl | hold
      · have hx' : x < 8192 := lt_trans hx s.build.srcWMax.isLt
        exact ⟨(srcKey_mod hx').symm ▸ hx, (srcKey_div hx').symm ▸ hy⟩
      · exact hsr c hold
  rw [← hb] at hpbuf hsrc
  exact ⟨hpbuf.1, hsrc.1, hpbuf.2, hsrc.2⟩

/-- A reset clears every written-mark. -/
theorem memInv_resetTick {s : State} (h : resetDue s = true) : MemInv (resetTick s) := by
  obtain ⟨r, c, rest, hr, -⟩ := resets_of_resetDue h
  simp [resetTick_cons hr, resetBlock, State.afterReset, endTick, MemInv, Memory.wf]

/-- What an operation does in its acceptance tick leaves the memories alone. -/
theorem Begun.memories {a s1 : State} {i : Instr} (h : Begun a i s1) : s1.pbuf = a.pbuf ∧ s1.src = a.src := by
  cases h <;> simp

theorem Begun.cfg_eq {a s1 : State} {i : Instr} (h : Begun a i s1) : s1.cfg = a.cfg := by
  cases h <;> simp

/-- The invariant of the run of an operation: while one is in progress, a full buffer fits PBUF. -/
def MemInvInRun (s : State) : Prop :=
  MemInv s ∧ (s.opState = .busy → fullLen s.cfg ≤ s.build.pbufSize.toNat)

theorem memInvInRun_tick {s : State} (hb : s.opState = .busy) (h : MemInvInRun s) : MemInvInRun (tick s) := by
  obtain ⟨hm, hlen⟩ := h
  unfold tick
  split
  case isTrue hd =>
    refine ⟨memInv_resetTick hd, fun hbusy => ?_⟩
    obtain ⟨r, c, rest, hr, -⟩ := resets_of_resetDue hd
    simp [resetTick_cons hr, resetBlock, State.afterReset] at hbusy
  case isFalse =>
    refine ⟨?_, fun _ => by simpa using hlen hb⟩
    rcases engineTick_byOp (readPort s) with ⟨-, he⟩ | ⟨-, he⟩ | ⟨-, he⟩ | ⟨-, -, he⟩ <;> rw [he]
    · exact hm.of_eq (by simp) (by simp) (by simp)
    · exact hm.of_eq (by simp) (by simp) (by simp)
    · rcases packTick_cases (readPort s) with hp | hp <;> rw [hp]
      · exact hm.setLow (hlen hb) (by simp) (by simp; rfl) (by simp)
      · exact hm.of_eq (by simp) (by simp) (by simp)
    · exact hm.of_eq (by simp) (by simp) (by simp)

theorem exec_memInv {i : Instr} {s t : State} (hm : MemInv s) (h : exec i s = .next t) : MemInv t := by
  obtain ⟨-, -, -, hlen, -⟩ := (legalCfg_iff _ _).1 (exec_next h).1.1
  refine (exec_keeps (P := MemInvInRun) h (fun s1 hs => ?_) (fun u hb hu => memInvInRun_tick hb hu)).1
  obtain ⟨hp, hsrc⟩ := hs.memories
  have hb := hs.configKept.build
  exact ⟨hm.of_eq (by simpa using hb) (by simpa using hp) (by simpa using hsrc), fun _ => by simpa [hb, hs.cfg_eq] using hlen⟩

/-- Settles O43: every way a step can answer a next state keeps the form of the memories. -/
theorem memoriesStayCanonical : Obligations.MemoriesStayCanonical := by
  unfold Obligations.MemoriesStayCanonical
  intro s t hm h
  obtain ⟨hl, hs⟩ := step_next h
  obtain ⟨-, -, -, hlen, -⟩ := (legalCfg_iff _ _).1 hl
  cases hs with
  | reset hd => exact memInv_resetTick hd
  | resumed => exact (complete_keeps (P := MemInvInRun) (fun u hb hu => memInvInRun_tick hb hu) s ⟨hm, fun _ => hlen⟩).1
  | idle _ _ _ s1 hport =>
    have hread : MemInv (readPort s) := hm.of_eq (by simp) (by simp) (by simp)
    exact (hread.portMove (memPort_move hport)).of_eq rfl rfl rfl
  | op _ _ _ _ _ _ _ ht => exact exec_memInv (s := takeWord s) hm ht
  | illegal => exact hm.of_eq (by simp) (by simp) (by simp)

end Sys2Proof.Machine
end

section
/-! PROOF of O44 (10_state.md R28, R30, 60_exceptions.md R280, 41_busy_sync.md R166). What must be gone when an operation ends
is a request outstanding and NOTIFY. While an operation is in progress, only the framer's operations have a request
outstanding, and they end when it has returned; NOTIFY is 1 only in a WAIT with a callback, whose exit clears it. -/

namespace Sys2Proof.Machine

/-- What holds while an operation is in progress. -/
structure UnderWay (s : State) : Prop where
  busy : s.opState = .busy
  outstanding : FramerOp s.curOp ∨ s.env.outstanding = none
  notify : s.notify = false ∨ fieldOp s.curOp = 4 ∧ s.cfg.notifyEn = true

/-- An operation is in progress, or nothing of one is left. -/
def UnderWayOrIdle (s : State) : Prop := UnderWay s ∨ IdleInv s

theorem UnderWay.endTick {s : State} (h : UnderWay s) : UnderWay (endTick s) := ⟨h.busy, h.outstanding, h.notify⟩

theorem UnderWayOrIdle.endTick {s : State} (h : UnderWayOrIdle s) : UnderWayOrIdle (endTick s) :=
  h.imp UnderWay.endTick id

theorem UnderWay.readPort {s : State} (h : UnderWay s) : UnderWay (readPort s) :=
  ⟨by simpa using h.busy, by simpa using h.outstanding, by simpa using h.notify⟩

/-- Nothing of an operation is left when it finishes with no request outstanding and NOTIFY 0. -/
theorem idleInv_finish {code : Result} {s : State} (ho : s.env.outstanding = none) (hn : s.notify = false) :
    IdleInv (finish code s) := ⟨rfl, rfl, rfl, rfl, ho, hn⟩

theorem idleInv_resetTick {s : State} (h : resetDue s = true) : IdleInv (resetTick s) := by
  obtain ⟨r, c, rest, hr, -⟩ := resets_of_resetDue h
  simp [resetTick_cons hr, resetBlock, State.afterReset, IdleInv]

/-- In a framer operation NOTIFY is 0. -/
theorem UnderWay.notify_framer {s : State} (h : UnderWay s) (hop : FramerOp s.curOp) : s.notify = false :=
  h.notify.resolve_right fun hw => fieldOp_ne_wait_of_framer hop hw.1

theorem UnderWay.issue {s : State} (h : UnderWay s) (hop : FramerOp s.curOp) (st : FramerState) (q : Request) :
    UnderWay (issue st q s) :=
  ⟨by simpa using h.busy, .inl (by simpa using hop), by simpa using h.notify⟩

theorem UnderWay.decides {s u : State} (h : UnderWay s) (hop : FramerOp s.curOp) (hd : Decides s u) :
    UnderWay u ∧ FramerOp u.curOp := by
  cases hd with
  | counting => exact ⟨⟨h.busy, .inl hop, h.notify⟩, hop⟩
  | replied o => exact ⟨⟨by simpa using h.busy, .inl (by simpa using hop), by simpa using h.notify⟩, by simpa using hop⟩

theorem UnderWay.framerTick {s : State} (h : UnderWay s) (hop : FramerOp s.curOp) : UnderWayOrIdle (framerTick s) := by
  have hm := framerTick_move s
  generalize Machine.framerTick s = t at hm ⊢
  cases hm with
  | awaits o => exact .inl ⟨h.busy, .inl hop, h.notify⟩
  | holds u hd => exact .inl (h.decides hop hd).1
  | issues st q u hd => exact .inl ((h.decides hop hd).1.issue (h.decides hop hd).2 st q)
  | finishes code _ u hd =>
    exact .inr (idleInv_finish hd.outstanding ((h.decides hop hd).1.notify_framer (h.decides hop hd).2))

theorem UnderWay.waitTick {s : State} (h : UnderWay s) (hop : fieldOp s.curOp = 4) : UnderWayOrIdle (waitTick s) := by
  have ho : s.env.outstanding = none := h.outstanding.resolve_left (not_framerOp_of_wait hop)
  have hexit (code : Result) : IdleInv (exitWait code (sampleBusy s)) := by
    refine ⟨by simp, by simp, by simp, by simp, by simpa using ho, ?_⟩
    rcases h.notify with hn | ⟨-, he⟩ <;> simp [*]
  obtain he | he | he | he := waitTick_cases s <;> rw [he]
  · exact .inr (hexit _)
  · exact .inr (hexit _)
  · exact .inl ⟨by simpa using h.busy, .inr (by simpa using ho), by simpa using h.notify⟩
  · exact .inl ⟨h.busy, .inr ho, h.notify⟩

theorem UnderWay.engineTick {s : State} (h : UnderWay s) : UnderWayOrIdle (engineTick s) := by
  rcases engineTick_byOp s with ⟨hop, he⟩ | ⟨hop, he⟩ | ⟨hop, he⟩ | ⟨hf, hw, he⟩ <;> rw [he]
  · exact h.framerTick hop
  · exact h.waitTick hop
  · have ho := h.outstanding.resolve_left (not_framerOp_of_packer hop)
    have hn := h.notify.resolve_right fun hw => fieldOp_ne_wait_of_packer hop hw.1
    obtain hp | hp := packTick_cases s <;> rw [hp]
    · exact .inr (idleInv_finish ho hn)
    · exact .inl ⟨h.busy, .inr ho, .inl hn⟩
  · exact .inr (idleInv_finish (h.outstanding.resolve_left hf) (h.notify.resolve_right fun hn => hw hn.1))

theorem UnderWay.tick {s : State} (h : UnderWay s) : UnderWayOrIdle (tick s) := by
  unfold Machine.tick
  split
  · exact .inr (idleInv_resetTick ‹_›)
  · exact h.readPort.engineTick.endTick

/-- An operation accepted in a state with nothing in progress is under way, or at its finish. -/
theorem Begun.underWayOrIdle {a s1 : State} {i : Instr} (h : Begun a i s1) (hb : a.opState = .busy)
    (hw : a.curOp = encode i) (ho : a.env.outstanding = none) (hn : a.notify = false) : UnderWayOrIdle s1 := by
  have ha : UnderWay a := ⟨hb, .inr ho, .inl hn⟩
  cases h with
  | cmd | data | datab => exact .inl (ha.issue (by simp [hw, FramerOp]) _ _)
  | databInvalid | packFullInvalid | packSubInvalid => exact .inr (idleInv_finish ho hn)
  | wait =>
    refine UnderWay.waitTick ⟨by simpa using hb, .inr (by simpa using ho), ?_⟩ (by simp [hw])
    simp [hn, hw]
  | rstp => exact .inl (UnderWay.issue (s := { a with fcnt := 0 }) ⟨hb, .inr ho, .inl hn⟩ (by simp [hw, FramerOp]) _ _)
  | packFull | packSub | fill =>
    exact .inl ⟨by simpa using hb, .inr (by simpa using ho), .inl (by simpa using hn)⟩

theorem exec_idleInv {i : Instr} {s t : State} (hi : IdleInv s) (h : exec i s = .next t) : IdleInv t := by
  obtain ⟨-, -, -, -, ho, hn⟩ := hi
  have hend : UnderWayOrIdle t := by
    refine exec_keeps h (fun s1 hs => (hs.underWayOrIdle rfl rfl ?_ ?_).endTick) (fun u hb hu => ?_)
    · simpa using ho
    · simpa using hn
    · rcases hu with hu | hu
      · exact hu.tick
      · simp [hu.1] at hb
  exact hend.resolve_left fun hu => absurd hu.busy (by simp [exec_idle h])

/-- Settles O44: every way a step can answer a next state leaves nothing of an operation behind. -/
theorem stepEndsIdle : Obligations.StepEndsIdle := by
  unfold Obligations.StepEndsIdle
  intro s t hi h
  have hi' := hi
  obtain ⟨hidle, hf, hs, hp, ho, hn⟩ := hi'
  cases (step_next h).2 with
  | reset hd => exact idleInv_resetTick hd
  | resumed _ hb => simp [hidle] at hb
  | idle _ _ _ s1 hm =>
    obtain ⟨txns, replies, hframe⟩ := (memPort_move hm).frame
    rw [hframe]
    exact ⟨by simpa using hidle, by simpa using hf, by simpa using hs, by simpa using hp, by simpa using ho,
      by simpa using hn⟩
  | op _ _ _ _ _ _ _ ht => exact exec_idleInv (s := takeWord s) hi ht
  | illegal => exact idleInv_finish (by simpa using ho) (by simpa using hn)

end Sys2Proof.Machine
end

section
/-! The way of an operation from its acceptance to its end, said once for every operation: while it is in progress
(`OnTheWay`), in its finishing tick (`AtFinish`), and how it can end (`Ended`): finished, or abandoned by a reset. -/

namespace Sys2Proof.Machine

/-- The results of an operation that runs (60_exceptions.md R281 to R285). -/
inductive ResultOf : Instr → Result → Prop where
  | ok (i : Instr) : ResultOf i .ok
  | timeout : ResultOf .wait .timeout
  | transportFailure (i : Instr) (h : FramerOp (encode i)) : ResultOf i .transportFailure
  | databInvalid (len addr : BitVec 14) : ResultOf (.datab len addr) .invalidInput
  | packFullInvalid (w h : BitVec 13) : ResultOf (.packFull w h) .invalidInput
  | packSubInvalid (w h : BitVec 13) : ResultOf (.packSub w h) .invalidInput

/-- An event that neither ends an operation nor tells the host that a WAIT is over. -/
def Quiet (e : Stamped) : Prop := isDone e = false ∧ e.event ≠ .notify false

/-- From the acceptance of operation `i`, which made state `a`, to `v` no reset was taken and the operation has not
finished. -/
structure OnTheWay (i : Instr) (a v : State) : Prop where
  opState : v.opState = .busy
  curOp : v.curOp = encode i
  lastOp : v.lastOp = fieldOp (encode i)
  result : v.result = .none
  notify : v.notify = (decide (i = .wait) && a.cfg.notifyEn || a.notify)
  build : v.build = a.build
  cfg : v.cfg = a.cfg
  src : v.src = a.src
  faulted : v.faulted = a.faulted
  now : a.env.now ≤ v.env.now
  resets : v.env.resets = a.env.resets
  ops : v.env.ops = a.env.ops
  txns : v.env.txns = a.env.txns
  memReplies : v.env.memReplies = a.env.memReplies
  trace : ∃ new, v.env.trace = a.env.trace ++ new ∧ ∀ e ∈ new, Quiet e

/-- The finishing tick, before its end. -/
inductive AtFinish (i : Instr) (a : State) : State → Prop where
  | finish (code : Result) (hc : ResultOf i code) (v : State) (hv : OnTheWay i a v) : AtFinish i a (finish code v)
  | exitWait (code : Result) (hc : ResultOf i code) (v : State) (hv : OnTheWay i a v) : AtFinish i a (exitWait code v)

/-- On the way or in the finishing tick. -/
def Moved (i : Instr) (a u : State) : Prop := OnTheWay i a u ∨ AtFinish i a u

variable {i : Instr} {a u v : State}

/-- What moves only the framer, the counters, the pins, PBUF, the draws and the register port, and records quiet events,
stays on the way. -/
theorem OnTheWay.move (h : OnTheWay i a v) (hnew : ∃ new, u.env.trace = v.env.trace ++ new ∧ ∀ e ∈ new, Quiet e)
    (opState : u.opState = v.opState := by simp) (curOp : u.curOp = v.curOp := by simp)
    (lastOp : u.lastOp = v.lastOp := by simp) (result : u.result = v.result := by simp)
    (notify : u.notify = v.notify := by simp) (build : u.build = v.build := by simp)
    (cfg : u.cfg = v.cfg := by simp) (src : u.src = v.src := by simp) (faulted : u.faulted = v.faulted := by simp)
    (now : v.env.now ≤ u.env.now := by simp) (resets : u.env.resets = v.env.resets := by simp)
    (ops : u.env.ops = v.env.ops := by simp) (txns : u.env.txns = v.env.txns := by simp)
    (memReplies : u.env.memReplies = v.env.memReplies := by simp) : OnTheWay i a u where
  opState := opState.trans h.opState
  curOp := curOp.trans h.curOp
  lastOp := lastOp.trans h.lastOp
  result := result.trans h.result
  notify := notify.trans h.notify
  build := build.trans h.build
  cfg := cfg.trans h.cfg
  src := src.trans h.src
  faulted := faulted.trans h.faulted
  now := h.now.trans now
  resets := resets.trans h.resets
  ops := ops.trans h.ops
  txns := txns.trans h.txns
  memReplies := memReplies.trans h.memReplies
  trace := by
    obtain ⟨old, ho, hqo⟩ := h.trace
    obtain ⟨new, hn, hqn⟩ := hnew
    exact ⟨old ++ new, by rw [hn, ho, List.append_assoc],
      fun e he => (List.mem_append.1 he).elim (hqo e) (hqn e)⟩

/-- No new event. -/
theorem no_new {t : List Stamped} (h : t = a.env.trace) : ∃ new, t = a.env.trace ++ new ∧ ∀ e ∈ new, Quiet e :=
  ⟨[], by simp [h], by simp⟩

/-- One new event. -/
theorem one_new {t : List Stamped} {e : Stamped} (h : t = a.env.trace ++ [e]) (hq : Quiet e) :
    ∃ new, t = a.env.trace ++ new ∧ ∀ e ∈ new, Quiet e :=
  ⟨[e], h, fun _ he => List.mem_singleton.1 he ▸ hq⟩

theorem quiet_request (n : Nat) (q : Request) (r : Reply) (m : Nat) : Quiet ⟨n, .request q r m⟩ :=
  ⟨rfl, Event.noConfusion⟩

theorem quiet_readPin (n : Nat) (l : Level) : Quiet ⟨n, .readPin l⟩ := ⟨rfl, Event.noConfusion⟩

theorem quiet_notifyEvent (c : Cfg) (n : Nat) : ∀ e ∈ notifyEvent c n true, Quiet e := by
  unfold notifyEvent Quiet
  split <;> simp [isDone]

/-! ### The engines -/

theorem OnTheWay.decides (h : OnTheWay i a v) (hd : Decides v u) : OnTheWay i a u := by
  cases hd with
  | counting => exact h.move (no_new rfl)
  | replied o => exact h.move (one_new (takeReply_trace o v) (quiet_request ..))

theorem OnTheWay.framerTick (h : OnTheWay i a v) (hop : FramerOp (encode i)) : Moved i a (framerTick v) := by
  have hm := framerTick_move v
  generalize Machine.framerTick v = w at hm ⊢
  cases hm with
  | awaits o => exact .inl (h.move (no_new rfl))
  | holds u hd => exact .inl (h.decides hd)
  | issues st q u hd => exact .inl ((h.decides hd).move (no_new (by simp)))
  | finishes code hc u hd =>
    rcases hc with rfl | rfl
    · exact .inr (.finish _ (.ok i) u (h.decides hd))
    · exact .inr (.finish _ (.transportFailure i hop) u (h.decides hd))

theorem OnTheWay.sampleBusy (h : OnTheWay i a v) : OnTheWay i a (sampleBusy v) :=
  h.move (one_new (sampleBusy_trace v) (quiet_readPin ..))

theorem OnTheWay.waitTick (h : OnTheWay .wait a v) : Moved .wait a (waitTick v) := by
  obtain he | he | he | he := waitTick_cases v <;> rw [he]
  · exact .inr (.exitWait _ (.ok _) _ h.sampleBusy)
  · exact .inr (.exitWait _ .timeout _ h.sampleBusy)
  · exact .inl (h.sampleBusy.move (no_new rfl))
  · exact .inl (h.move (no_new rfl))

theorem OnTheWay.packTick (h : OnTheWay i a v) : Moved i a (packTick v) := by
  obtain he | he := packTick_cases v <;> rw [he]
  · exact .inr (.finish _ (.ok i) _ (h.move (no_new rfl)))
  · exact .inl (h.move (no_new rfl))

/-- The engine of an operation, by the operation. -/
theorem engine_of_instr (i : Instr) : FramerOp (encode i) ∨ i = .wait ∨ PackerOp (encode i) := by
  cases i <;> simp [FramerOp, PackerOp]

theorem OnTheWay.engineTick (h : OnTheWay i a v) : Moved i a (engineTick v) := by
  have hc := h.curOp
  rcases engine_of_instr i with hop | rfl | hop
  · rw [engineTick_framer (hc ▸ hop)]; exact h.framerTick hop
  · rw [engineTick_wait (by simp [hc])]; exact h.waitTick
  · rw [engineTick_packer (hc ▸ hop)]; exact h.packTick

theorem OnTheWay.readPort (h : OnTheWay i a v) : OnTheWay i a (readPort v) := h.move (no_new (by simp))

theorem OnTheWay.endTick (h : OnTheWay i a v) : OnTheWay i a (endTick v) := h.move (no_new (by simp))

/-! ### The run -/

/-- How an operation can end: at its finish, or abandoned by a reset. -/
inductive Ended (i : Instr) (a : State) : State → Prop where
  | finished (w : State) (hw : AtFinish i a w) : Ended i a (endTick w)
  | abandoned (v : State) (hv : OnTheWay i a v) (hd : resetDue v = true) : Ended i a (resetTick v)

/-- On the way, or ended. -/
def Ran (i : Instr) (a u : State) : Prop := OnTheWay i a u ∨ Ended i a u

theorem Moved.ran (h : Moved i a u) : Ran i a (Machine.endTick u) := h.imp OnTheWay.endTick (.finished u)

theorem OnTheWay.tick (h : OnTheWay i a v) : Ran i a (tick v) := by
  unfold Machine.tick
  split
  · exact .inr (.abandoned v h ‹_›)
  · exact h.readPort.engineTick.ran

theorem AtFinish.opState (h : AtFinish i a u) : u.opState = .idle := by cases h <;> rfl

theorem Ended.opState (h : Ended i a u) : u.opState = .idle := by
  cases h with
  | finished w hw => exact hw.opState
  | abandoned v hv hd =>
    obtain ⟨r, c, rest, hr, -⟩ := resets_of_resetDue hd
    simp [resetTick_cons hr, resetBlock, State.afterReset]

theorem ran_tick (hb : u.opState = .busy) (h : Ran i a u) : Ran i a (tick u) := by
  rcases h with h | h
  · exact h.tick
  · simp [h.opState] at hb

/-- An operation other than WAIT, just accepted. -/
theorem onTheWay_accept (hi : i ≠ .wait) (s : State) :
    OnTheWay i (accept (encode i) s) (accept (encode i) s) := by
  constructor <;> simp [hi]

/-- WAIT, entered in its acceptance tick. -/
theorem onTheWay_enterWait (s : State) :
    OnTheWay .wait (accept (encode .wait) s) (enterWait (accept (encode .wait) s)) := by
  constructor
  case trace => exact ⟨_, enterWait_trace _, quiet_notifyEvent _ _⟩
  all_goals simp

theorem Begun.moved {s s1 : State} (h : Begun (accept (encode i) s) i s1) : Moved i (accept (encode i) s) s1 := by
  cases h with
  | cmd | data | datab | rstp =>
    exact .inl ((onTheWay_accept (by simp) s).move (no_new (by simp)))
  | databInvalid len addr => exact .inr (.finish _ (.databInvalid len addr) _ (onTheWay_accept (by simp) s))
  | packFullInvalid w h => exact .inr (.finish _ (.packFullInvalid w h) _ (onTheWay_accept (by simp) s))
  | packSubInvalid w h => exact .inr (.finish _ (.packSubInvalid w h) _ (onTheWay_accept (by simp) s))
  | wait => exact (onTheWay_enterWait s).waitTick
  | packFull | packSub | fill => exact .inl ((onTheWay_accept (by simp) s).move (no_new (by simp)))

/-- Everything behind a next state that an operation answers: it finished, or a reset abandoned it. -/
theorem exec_ended {s t : State} (h : exec i s = .next t) : Ended i (accept (encode i) (Machine.readPort s)) t := by
  have hran : Ran i (accept (encode i) (Machine.readPort s)) t :=
    exec_keeps h (fun s1 hs => hs.moved.ran) (fun u hb hu => ran_tick hb hu)
  exact hran.resolve_left fun hw => absurd hw.opState (by simp [exec_idle h])

/-- Where the host has no reset scheduled, the operation finished. -/
theorem exec_finished {s t : State} (hn : NoReset s) (h : exec i s = .next t) :
    ∃ w, AtFinish i (accept (encode i) (Machine.readPort s)) w ∧ t = endTick w := by
  have he := exec_ended h
  generalize ha : accept (encode i) (Machine.readPort s) = a at he
  cases he with
  | finished w hw => exact ⟨w, hw, rfl⟩
  | abandoned v hv hd =>
    have hr : v.env.resets = [] := by rw [hv.resets, ← ha]; simpa using hn
    simp [resetDue, hr] at hd

/-! ### What the finishing tick leaves -/

/-- The finishing tick of operation `i`, accepted in state `a`, said once: the result and its one Done event, and what no
operation touches. -/
structure Finish (i : Instr) (a u : State) : Prop where
  result : ResultOf i u.result
  opState : u.opState = .idle
  framer : u.framer = .fIdle
  sync : u.sync = .sIdle
  packer : u.packer = .pIdle
  curOp : u.curOp = encode i
  lastOp : u.lastOp = fieldOp (encode i)
  build : u.build = a.build
  cfg : u.cfg = a.cfg
  faulted : u.faulted = a.faulted
  now : a.env.now ≤ u.env.now
  resets : u.env.resets = a.env.resets
  txns : u.env.txns = a.env.txns
  memReplies : u.env.memReplies = a.env.memReplies
  trace : ∃ new, u.env.trace = a.env.trace ++ new ++ [⟨u.env.now, .done (encode i) u.result⟩] ∧
    new.filter isDone = []

theorem filter_isDone_of_quiet {new : List Stamped} (h : ∀ e ∈ new, Quiet e) : new.filter isDone = [] := by
  rw [List.filter_eq_nil_iff]
  intro e he
  simp [(h e he).1]

theorem filter_isDone_notifyEvent (c : Cfg) (n : Nat) (b : Bool) : (notifyEvent c n b).filter isDone = [] := by
  unfold notifyEvent
  split <;> rfl

theorem AtFinish.facts (h : AtFinish i a u) : Finish i a u := by
  cases h with
  | finish code hc v hv =>
    obtain ⟨new, ht, hq⟩ := hv.trace
    refine ⟨hc, rfl, rfl, rfl, rfl, hv.curOp, hv.lastOp, hv.build, hv.cfg, hv.faulted, hv.now, hv.resets, hv.txns,
      hv.memReplies, new, ?_, filter_isDone_of_quiet hq⟩
    simp [ht, hv.curOp]
  | exitWait code hc v hv =>
    obtain ⟨new, ht, hq⟩ := hv.trace
    refine ⟨by simpa using hc, by simp, by simp, by simp, by simp, by simpa using hv.curOp, by simpa using hv.lastOp,
      by simpa using hv.build, by simpa using hv.cfg, by simpa using hv.faulted, by simpa using hv.now,
      by simpa using hv.resets, by simpa using hv.txns, by simpa using hv.memReplies,
      new ++ notifyEvent v.cfg v.env.now false, ?_, ?_⟩
    · simp [ht, hv.curOp]
    · rw [List.filter_append, filter_isDone_of_quiet hq, filter_isDone_notifyEvent]; rfl

/-- The finish of an operation that no reset disturbs. -/
theorem exec_finish {s t : State} (hn : NoReset s) (h : exec i s = .next t) :
    ∃ u, Finish i (accept (encode i) (Machine.readPort s)) u ∧ t = Machine.endTick u := by
  obtain ⟨w, hw, rfl⟩ := exec_finished hn h
  exact ⟨w, hw.facts, rfl⟩

end Sys2Proof.Machine
end

section
/-! PROOF of O39, O40 and O41 (60_exceptions.md R280 to R285): what every operation's finishing tick leaves, and that every
operation of a ready block begins unless it meets an unwritten cell. -/

namespace Sys2Proof.Machine

theorem ResultOf.ne_none {i : Instr} {code : Result} (h : ResultOf i code) : code ≠ .none := by cases h <;> simp

theorem ResultOf.ne_illegalOp {i : Instr} {code : Result} (h : ResultOf i code) : code ≠ .illegalOp := by
  cases h <;> simp

theorem ResultOf.eq_wait {i : Instr} (h : ResultOf i .timeout) : i = .wait := by cases h; rfl

theorem ResultOf.framer {i : Instr} (h : ResultOf i .transportFailure) :
    (∃ b, i = .cmd b) ∨ (∃ b, i = .data b) ∨ (∃ n a, i = .datab n a) ∨ i = .rstp := by
  cases h with
  | transportFailure i hf =>
    cases i with
    | wait | packFull | packSub | fill => simp [FramerOp] at hf
    | cmd | data | datab | rstp => simp

theorem ResultOf.checked {i : Instr} (h : ResultOf i .invalidInput) :
    (∃ n a, i = .datab n a) ∨ (∃ w h, i = .packFull w h) ∨ ∃ w h, i = .packSub w h := by
  cases h <;> simp

/-- Settles O39: the finishing tick writes the result, idles the engines and records the one Done event. -/
theorem everyOperationFinishesOnce : Obligations.EveryOperationFinishesOnce := by
  unfold Obligations.EveryOperationFinishesOnce
  intro i s t hn h
  obtain ⟨u, hu, rfl⟩ := exec_finish hn h
  obtain ⟨new, htrace, hdone⟩ := hu.trace
  have hnow : s.env.now ≤ u.env.now := by simpa using hu.now
  exact ⟨hu.opState, hu.framer, hu.sync, hu.packer, hu.result.ne_none, hu.curOp, Nat.lt_succ_of_le hnow, new,
    by simpa using htrace, hdone⟩

/-- Settles O41: by the results each operation can write in its finishing tick. -/
theorem resultsByOperation : Obligations.ResultsByOperation := by
  unfold Obligations.ResultsByOperation
  intro i s t hn h
  obtain ⟨u, hu, rfl⟩ := exec_finish hn h
  have hr : ResultOf i (endTick u).result := hu.result
  exact ⟨hr.ne_none, hr.ne_illegalOp, fun he => (he ▸ hr).eq_wait, fun he => (he ▸ hr).framer,
    fun he => (he ▸ hr).checked⟩

/-! ### Every operation whose memory is written begins -/

theorem firstUnwritten_none_of_written {m : Memory Byte} {a n : Nat}
    (h : ∀ k, k < n → (m.read (a + k)).isSome = true) : m.firstUnwritten a n = none := by
  refine Memory.firstUnwritten_eq_none.2 fun c hac hcn => ?_
  have := h (c - a) (by omega)
  rwa [Nat.add_sub_cancel' hac] at this

theorem firstUnwrittenCell_none_of_written {s : State} {w h : Nat} (hw : SourceWritten s w h) :
    firstUnwrittenCell s.src w 0 h = none :=
  firstUnwrittenCell_eq_none.2 fun c r hc _ hr => hw c r hc (by omega)

/-- The sizes PACK.FULL accepts (42_packer.md R196). -/
theorem fullOrientation_eq_none_iff {c : Cfg} {w h : BitVec 13} :
    fullOrientation c w h = none ↔ ¬ ((w = c.pw ∧ h = c.ph) ∨ (w = c.ph ∧ h = c.pw)) := by
  unfold fullOrientation
  split_ifs <;> simp_all

/-- Every operation begins in a state in which what it reads is written. -/
theorem exists_begun (i : Instr) (a : State)
    (hd : ∀ len addr, i = .datab len addr → 1 ≤ len.toNat → addr.toNat + len.toNat ≤ a.build.pbufSize.toNat →
      ∀ k, k < len.toNat → (a.pbuf.read (addr.toNat + k)).isSome = true)
    (hf : ∀ w h, i = .packFull w h → (w = a.cfg.pw ∧ h = a.cfg.ph) ∨ (w = a.cfg.ph ∧ h = a.cfg.pw) →
      SourceWritten a w.toNat h.toNat)
    (hp : ∀ w h, i = .packSub w h → w.toNat ≤ a.build.srcWMax.toNat → h.toNat ≤ a.build.srcHMax.toNat →
      SourceWritten a w.toNat h.toNat) : ∃ s1, Begun a i s1 := by
  cases i with
  | cmd b => exact ⟨_, .cmd b⟩
  | data b => exact ⟨_, .data b⟩
  | wait => exact ⟨_, .wait⟩
  | rstp => exact ⟨_, .rstp⟩
  | fill b => exact ⟨_, .fill b⟩
  | datab len addr =>
    cases hv : databInvalid a.build len addr with
    | true => exact ⟨_, .databInvalid len addr hv⟩
    | false =>
      rw [← Bool.not_eq_true, databInvalid_iff] at hv
      refine ⟨_, .datab len addr (by rwa [← Bool.not_eq_true, databInvalid_iff])
        (firstUnwritten_none_of_written (hd len addr rfl ?_ ?_))⟩ <;> omega
  | packFull w h =>
    cases ho : fullOrientation a.cfg w h with
    | none => exact ⟨_, .packFullInvalid w h ho⟩
    | some o =>
      have hsize : (w = a.cfg.pw ∧ h = a.cfg.ph) ∨ (w = a.cfg.ph ∧ h = a.cfg.pw) := by
        by_contra hc
        simp [fullOrientation_eq_none_iff.2 hc] at ho
      exact ⟨_, .packFull w h o ho (firstUnwrittenCell_none_of_written (hf w h rfl hsize))⟩
  | packSub w h =>
    cases hv : subInvalid a.build w h with
    | true => exact ⟨_, .packSubInvalid w h hv⟩
    | false =>
      rw [← Bool.not_eq_true, subInvalid_iff] at hv
      refine ⟨_, .packSub w h (by rwa [← Bool.not_eq_true, subInvalid_iff])
        (firstUnwrittenCell_none_of_written (hp w h rfl ?_ ?_))⟩ <;> omega

/-- Settles O40: the operation begins, so it runs to its finish. -/
theorem everyReadyOperationCompletes : Obligations.EveryReadyOperationCompletes := by
  unfold Obligations.EveryReadyOperationCompletes
  intro i s hr hn hd hf hp
  obtain ⟨s1, hs⟩ := exists_begun i (accept (encode i) (readPort s)) (by simpa using hd) (by simpa [SourceWritten] using hf)
    (by simpa [SourceWritten] using hp)
  have h := exec_of_begun hr hs
  obtain ⟨u, hu, ht⟩ := exec_finish hn h
  rw [h, ht]
  exact ⟨_, rfl, hu.opState, hu.result.ne_none, hu.curOp, hu.lastOp, by simpa using hu.faulted⟩

end Sys2Proof.Machine
end

section
/-! PROOF of O48 (70_reset_and_hazards.md R312). While an operation is in progress the reset scheduled for tick `r` is still
scheduled and `r` has not passed, so an operation that finishes does so before `r`, and one that is abandoned is so in `r`. -/

namespace Sys2Proof.Machine

variable {r : Nat} {c : Cfg} {rest : List (Nat × Cfg)}

/-- The reset at the head of the schedule is to come, or was taken in its tick. -/
def ResetOnTime (r : Nat) (c : Cfg) (rest : List (Nat × Cfg)) (u : State) : Prop :=
  (u.env.resets = (r, c) :: rest ∧ u.env.now ≤ r) ∨
    (u.env.resets = rest ∧ u.env.now = r + 1 ∧ u.opState = .idle)

/-- A tick in which no reset is due keeps the schedule and takes one tick. -/
theorem resetOnTime_tick {u : State} (hb : u.opState = .busy) (h : ResetOnTime r c rest u) :
    ResetOnTime r c rest (tick u) := by
  rcases h with ⟨hr, hle⟩ | ⟨-, -, hi⟩
  · by_cases hd : r ≤ u.env.now
    · have ht : tick u = resetTick u := by simp [tick, resetDue, hr, hd]
      rw [ht, resetTick_cons hr]
      exact .inr ⟨by simp [resetBlock], by simp [resetBlock]; omega, by simp [resetBlock, State.afterReset]⟩
    · have ht : tick u = endTick (engineTick (readPort u)) := by simp [tick, resetDue, hr, hd]
      rw [ht]
      exact .inl ⟨by simpa using hr, by simp; omega⟩
  · simp [hi] at hb

theorem exec_resetOnTime {i : Instr} {s t : State} (hr : s.env.resets = (r, c) :: rest) (hlt : s.env.now < r)
    (h : exec i s = .next t) : ResetOnTime r c rest t := by
  refine exec_keeps h (fun s1 hs => .inl ?_) (fun u hb hu => resetOnTime_tick hb hu)
  cases hs <;> simp [hr] <;> omega

/-- What a reset makes of the operation it abandons. -/
theorem dropOutstanding_trace (s : State) :
    ∃ new, (dropOutstanding s).env.trace = s.env.trace ++ new ∧ ∀ e ∈ new, Quiet e := by
  unfold dropOutstanding
  split
  · exact ⟨[], by simp, by simp⟩
  · exact one_new rfl (quiet_request ..)

/-- Settles O48: the two ways an operation can end, each with the tick the schedule leaves it. -/
theorem resetAbandonsOperation : Obligations.ResetAbandonsOperation := by
  unfold Obligations.ResetAbandonsOperation
  intro i s t r c rest hr hlt h
  have htime := exec_resetOnTime hr hlt h
  have he := exec_ended h
  generalize ha : accept (encode i) (readPort s) = a at he
  have hares : a.env.resets = (r, c) :: rest := by rw [← ha]; simpa using hr
  cases he with
  | finished w hw =>
    have hf := hw.facts
    have hres : (endTick w).env.resets = (r, c) :: rest := hf.resets.trans hares
    have hnow : (endTick w).env.now ≤ r := by
      rcases htime with ⟨-, hle⟩ | ⟨hc, -⟩
      · exact hle
      · rw [hres] at hc; exact absurd hc (List.cons_ne_self _ _)
    exact .inl ⟨hres, hnow, hf.result.ne_none, by simpa [← ha] using hf.cfg⟩
  | abandoned v hv hd =>
    have hvres : v.env.resets = (r, c) :: rest := hv.resets.trans hares
    obtain ⟨old, hold, hqold⟩ := hv.trace
    obtain ⟨new, hnew, hqnew⟩ := dropOutstanding_trace { v with env := { v.env with resets := rest } }
    have hq : ∀ e ∈ old ++ new, Quiet e := fun e he => (List.mem_append.1 he).elim (hqold e) (hqnew e)
    have hres : (resetTick v).env.resets = rest := by rw [resetTick_resets, hvres, List.tail_cons]
    have hnow : (resetTick v).env.now = r + 1 := by
      rcases htime with ⟨hc, -⟩ | ⟨-, hnow, -⟩
      · rw [hres] at hc; exact absurd hc.symm (List.cons_ne_self _ _)
      · exact hnow
    refine .inr ⟨hres, hnow, ?_⟩
    rw [resetTick_cons hvres]
    refine ⟨rfl, rfl, rfl, rfl, rfl, rfl, rfl, fun _ => rfl, fun _ => rfl, old ++ new, ?_, filter_isDone_of_quiet hq,
      fun e he => (hq e he).2⟩
    have ht : (resetBlock c { v with env := { v.env with resets := rest } }).env.trace = s.env.trace ++ (old ++ new) := by
      rw [← List.append_assoc]
      exact hnew.trans (congrArg (· ++ new) (by simpa [← ha] using hold))
    exact ht

end Sys2Proof.Machine
end

section
/-! PROOF of O33 (20_memory.md R64, R72), O49 (10_state.md R43): no tick of an operation, also none in which a reset is
asserted, touches the memory port's lists or FAULTED. -/

namespace Sys2Proof.Machine

/-- What a reset leaves of the host's ports and of FAULTED (70_reset_and_hazards.md R310 to R312). -/
theorem resetTick_ports (s : State) :
    (resetTick s).env.txns = s.env.txns ∧ (resetTick s).env.memReplies = s.env.memReplies ∧
      (resetTick s).env.ops = s.env.ops ∧ (resetTick s).env.regReplies = s.env.regReplies ∧
      (resetTick s).faulted = s.faulted := by
  unfold resetTick
  split <;> simp [resetBlock]

/-- How an operation ends, finished or abandoned, leaves the memory port and FAULTED as they were. -/
theorem Ended.ports {i : Instr} {a u : State} (h : Ended i a u) :
    u.env.txns = a.env.txns ∧ u.env.memReplies = a.env.memReplies ∧ u.faulted = a.faulted := by
  cases h with
  | finished w hw => exact ⟨hw.facts.txns, hw.facts.memReplies, hw.facts.faulted⟩
  | abandoned v hv hd =>
    obtain ⟨htxns, hreplies, -, -, hfaulted⟩ := resetTick_ports v
    exact ⟨htxns.trans hv.txns, hreplies.trans hv.memReplies, hfaulted.trans hv.faulted⟩

theorem exec_ports {i : Instr} {s t : State} (h : exec i s = .next t) :
    t.env.txns = s.env.txns ∧ t.env.memReplies = s.env.memReplies ∧ t.faulted = s.faulted := by
  simpa using (exec_ended h).ports

/-- Settles O33: the ports are as before at the operation's end, finished or abandoned. -/
theorem memoryPortHeldDuringOperation : Obligations.MemoryPortHeldDuringOperation := by
  unfold Obligations.MemoryPortHeldDuringOperation
  intro i s t h
  obtain ⟨htxns, hreplies, -⟩ := exec_ports h
  exact ⟨htxns, hreplies⟩

/-! ### FAULTED -/

/-- Every fault of an operation is one of the two raised by an unwritten cell, so it sets FAULTED. -/
theorem exec_fault_faulted {i : Instr} {s : State} {f : Fault} (h : exec i s = .fault f) : f.left.faulted = true := by
  cases i <;>
    simp only [exec, execCmd, execData, execDatab, execWait, execRstp, execPackFull, execPackSub, execFill] at h <;>
    have hb := (operate_eq_fault h).2 <;> clear h
  case cmd | data | wait | rstp | fill => cases hb
  case datab =>
    split at hb
    · cases hb
    · split at hb <;> cases hb; rfl
  case packFull | packSub =>
    split at hb
    · cases hb
    · unfold packReading at hb
      split at hb <;> cases hb; rfl

/-- So does a fault of the operation in progress. -/
theorem pendingUninit_faulted {s : State} {f : Fault} (h : pendingUninit s = some f) : f.left.faulted = true := by
  unfold pendingUninit at h
  split_ifs at h
  · obtain ⟨x, -, rfl⟩ := Option.map_eq_some_iff.1 h; rfl
  · obtain ⟨x, -, rfl⟩ := Option.map_eq_some_iff.1 h; rfl

theorem step_fault_faulted {s : State} {f : Fault} (h : step s = .fault f) : f.left.faulted = true := by
  obtain ⟨-, -, hf⟩ := step_fault h
  cases hf with
  | resumed _ _ hu => exact pendingUninit_faulted hu
  | idle _ _ hm => exact memPort_fault hm
  | op _ _ _ _ _ _ he => exact exec_fault_faulted he

theorem tick_faulted (s : State) : (tick s).faulted = s.faulted := by
  unfold tick
  split
  · exact (resetTick_ports s).2.2.2.2
  · simp

theorem step_next_faulted {s t : State} (h : step s = .next t) : t.faulted = s.faulted := by
  cases (step_next h).2 with
  | reset => exact (resetTick_ports s).2.2.2.2
  | resumed =>
    exact complete_keeps (P := fun u => u.faulted = s.faulted) (fun u _ hu => (tick_faulted u).trans hu) s rfl
  | idle _ _ _ s1 hm =>
    obtain ⟨txns, replies, hf⟩ := (memPort_move hm).frame
    rw [hf]; simp
  | op _ _ _ _ _ _ _ ht => exact (exec_ports ht).2.2
  | illegal => simp

/-- Settles O49: every fault is raised with FAULTED set, and no way to a next state touches it. -/
theorem faultedIsNeverCleared : Obligations.FaultedIsNeverCleared := by
  unfold Obligations.FaultedIsNeverCleared
  exact ⟨fun _ _ => step_fault_faulted, fun _ _ _ => exec_fault_faulted, fun _ _ => step_next_faulted, fun _ _ => rfl⟩

end Sys2Proof.Machine
end

section
/-! PROOF of O36 and O37 (10_state.md R32). The register port answers before everything else a tick does and only at the end
of its list; and every part of a step commutes with erasing the reads. -/

namespace Sys2Proof.Machine

theorem readPort_due {s : State} {tk : Nat} {ra : BitVec 4} {rest : List (Nat × BitVec 4)}
    (h : s.env.regReads = (tk, ra) :: rest) (hle : tk ≤ s.env.now) :
    (readPort s).env.regReads = rest ∧
      (readPort s).env.regReplies = s.env.regReplies ++ [⟨s.env.now, ra, readReg s ra⟩] := by
  simp [readPort, h, hle]

/-- The register port only adds answers. -/
theorem readPort_regReplies (s : State) : s.env.regReplies <+: (readPort s).env.regReplies := by
  unfold readPort
  split
  · exact List.prefix_rfl
  · split
    · exact List.prefix_append _ _
    · exact List.prefix_rfl

theorem tick_regReplies (s : State) : s.env.regReplies <+: (tick s).env.regReplies := by
  unfold tick
  split
  · rw [(resetTick_ports s).2.2.2.1]
  · simpa using readPort_regReplies s

theorem Begun.regReplies {a s1 : State} {i : Instr} (h : Begun a i s1) : s1.env.regReplies = a.env.regReplies := by
  cases h <;> simp

/-- The answer of the acceptance tick comes first, whatever the ticks of the operation add. -/
theorem exec_regReplies {i : Instr} {s t : State} (h : exec i s = .next t) :
    (readPort s).env.regReplies <+: t.env.regReplies :=
  exec_keeps (P := fun u => (readPort s).env.regReplies <+: u.env.regReplies) h
    (fun s1 hs => by simp [hs.regReplies]) (fun u _ hu => hu.trans (tick_regReplies u))

/-- The register port and the operation port do not meet. -/
theorem readPort_takeWord (s : State) : readPort (takeWord s) = takeWord (readPort s) := by
  cases h : s.env.regReads with
  | nil => simp [readPort_none, h]
  | cons x rest =>
    by_cases hle : x.1 ≤ s.env.now
    · simp only [readPort, takeWord, h, hle, if_true]; rfl
    · simp only [readPort, takeWord, h, hle, if_false]

/-- In a step of a ready block that takes no reset the register port's answer comes first. -/
theorem step_regReplies {s t : State} (hr : Ready s) (hd : resetDue s = false) (h : step s = .next t) :
    (readPort s).env.regReplies <+: t.env.regReplies := by
  have htake : (readPort (takeWord s)).env.regReplies = (readPort s).env.regReplies := by rw [readPort_takeWord]; rfl
  cases (step_next h).2 with
  | reset hd' => simp [hd] at hd'
  | resumed _ ho => simp [hr.2] at ho
  | idle _ _ _ s1 hm =>
    obtain ⟨txns, replies, hf⟩ := (memPort_move hm).frame
    rw [hf]; simp
  | op _ _ _ _ _ _ _ ht => exact htake ▸ exec_regReplies ht
  | illegal => simp [htake]

/-- Settles O36: the answer of the step's tick comes first, with the value at its start. -/
theorem registerReadReturnsStartOfTickValue : Obligations.RegisterReadReturnsStartOfTickValue := by
  unfold Obligations.RegisterReadReturnsStartOfTickValue
  intro s t tk ra rest hr hd hreads hle h
  obtain ⟨more, hmore⟩ := step_regReplies hr hd h
  exact ⟨more, by rw [← hmore, (readPort_due hreads hle).2, List.append_assoc]; rfl⟩

/-! ### Register reads have no side effect -/

/-- What the memory port answers, without register reads. -/
def eraseReadsExcept : Except Fault State → Except Fault State
  | .ok s => .ok (eraseReads s)
  | .error f => .error f.eraseReads

@[simp] theorem eraseReads_eraseReads (s : State) : eraseReads (eraseReads s) = eraseReads s := rfl

@[simp] theorem eraseReads_fault (f : Fault) : f.eraseReads.eraseReads = f.eraseReads := by cases f <;> rfl

theorem performTxn_eraseReads (x : MemTxn) (s : State) :
    performTxn x (eraseReads s) = eraseReadsExcept (performTxn x s) := by
  cases x with
  | pbWr a v =>
    cases h : pbufInRange s.build a <;> simp only [performTxn, eraseReads_build, h] <;> rfl
  | pbRd a =>
    cases h : pbufInRange s.build a <;> cases hv : s.pbuf.read a <;>
      simp only [performTxn, eraseReads_build, eraseReads_pbuf, h, hv] <;> rfl
  | srcWr x y d | srcWrRgb x y r g b =>
    cases h : srcInRange s.build x y <;> simp only [performTxn, writeSrc, eraseReads_build, h] <;> rfl
  | srcRd x y =>
    cases h : srcInRange s.build x y <;> cases hv : s.src.read (srcKey x y) <;>
      simp only [performTxn, eraseReads_build, eraseReads_src, h, hv] <;> rfl

theorem memPort_eraseReads (s : State) : memPort (eraseReads s) = eraseReadsExcept (memPort s) := by
  cases h : s.env.txns with
  | nil => simp only [memPort, eraseReads_txns, h]; rfl
  | cons x rest =>
    by_cases hle : x.1 ≤ s.env.now
    · simp only [memPort, eraseReads_txns, eraseReads_now, h, hle, if_true]
      exact performTxn_eraseReads x.2 { s with env := { s.env with txns := rest } }
    · simp only [memPort, eraseReads_txns, eraseReads_now, h, hle, if_false]; rfl

theorem idleTick_eraseReads (s : State) : idleTick (eraseReads s) = eraseReadsOutcome (idleTick s) := by
  unfold idleTick
  rw [readPort_none rfl, ← eraseReads_readPort, memPort_eraseReads]
  cases memPort (readPort s) <;> rfl

/-- An operation whose body does not depend on register reads. -/
theorem operate_eraseReads {body : State → Except Fault State} (w : Word) (s : State)
    (hb : ∀ a, body (eraseReads a) = eraseReadsExcept (body a)) :
    operate w body (eraseReads s) = eraseReadsOutcome (operate w body s) := by
  cases hl : legalCfg s.build s.cfg with
  | false => simp only [operate, eraseReads_build, eraseReads_cfg, hl]; rfl
  | true =>
    cases ho : s.opState with
    | busy => simp only [operate, eraseReads_build, eraseReads_cfg, eraseReads_opState, hl, ho]; rfl
    | idle =>
      have hread : readPort (eraseReads s) = eraseReads (readPort s) := by
        rw [readPort_none rfl, eraseReads_readPort]
      simp only [operate, eraseReads_build, eraseReads_cfg, eraseReads_opState, hl, ho, if_true, hread,
        eraseReads_accept, hb]
      cases body (accept w (readPort s)) with
      | error f => rfl
      | ok s1 => simp only [eraseReadsExcept, eraseReadsOutcome, eraseReads_endTick, eraseReads_complete]

theorem packReading_eraseReads (w h : BitVec 13) (s : State) :
    packReading w h (eraseReads s) = eraseReadsExcept (packReading w h s) := by
  cases hc : firstUnwrittenCell s.src w.toNat 0 h.toNat with
  | some c => simp only [packReading, eraseReads_src, hc]; rfl
  | none => simp only [packReading, eraseReads_src, hc, eraseReads_startPack]; rfl

theorem exec_eraseReads (i : Instr) (s : State) : exec i (eraseReads s) = eraseReadsOutcome (exec i s) := by
  cases i <;>
    simp only [exec, execCmd, execData, execDatab, execWait, execRstp, execPackFull, execPackSub, execFill] <;>
    refine operate_eraseReads _ s fun a => ?_
  case cmd | data => simp only [eraseReads_cfg, eraseReads_startFrame]; rfl
  case datab len addr =>
    cases hv : Machine.databInvalid a.build len addr with
    | true => simp only [eraseReads_build, hv, if_true]; rfl
    | false =>
      simp only [eraseReads_build, eraseReads_pbuf, hv, Bool.false_eq_true, if_false]
      cases a.pbuf.firstUnwritten addr.toNat len.toNat with
      | some x => rfl
      | none => exact congrArg Except.ok (eraseReads_startFrame a.cfg.dcCmdLevel.other a)
  case wait => simp only [eraseReads_enterWait, eraseReads_waitTick]; rfl
  case rstp => simp only [eraseReads_startPulse]; rfl
  case packFull w h =>
    simp only [eraseReads_cfg]
    cases fullOrientation a.cfg w h with
    | none => rfl
    | some o => exact packReading_eraseReads w h a
  case packSub w h =>
    cases hv : Machine.subInvalid a.build w h with
    | true => simp only [eraseReads_build, hv, if_true]; rfl
    | false =>
      simp only [eraseReads_build, hv, Bool.false_eq_true, if_false]
      exact packReading_eraseReads w h a
  case fill => simp only [eraseReads_startPack]; rfl

theorem pendingUninit_eraseReads (s : State) :
    pendingUninit (eraseReads s) = (pendingUninit s).map Fault.eraseReads := by
  unfold pendingUninit
  rw [eraseReads_curOp]
  by_cases h3 : fieldOp s.curOp = 3
  · rw [if_pos h3, if_pos h3, Option.map_map]; rfl
  · rw [if_neg h3, if_neg h3]
    by_cases h6 : fieldOp s.curOp = 6
    · rw [if_pos h6, if_pos h6, Option.map_map]; rfl
    · rw [if_neg h6, if_neg h6]; rfl

theorem resume_eraseReads (s : State) : resume (eraseReads s) = eraseReadsOutcome (resume s) := by
  have hread : readPort (eraseReads s) = eraseReads (readPort s) := by
    rw [readPort_none rfl, eraseReads_readPort]
  cases h : pendingUninit (readPort s) with
  | some f => simp only [resume, hread, pendingUninit_eraseReads, h]; rfl
  | none => simp only [resume, hread, pendingUninit_eraseReads, h, eraseReads_complete]; rfl

theorem step_eraseReads (s : State) : step (eraseReads s) = eraseReadsOutcome (step s) := by
  have hdue : resetDue (eraseReads s) = resetDue s := rfl
  have hword : presentedWord (eraseReads s) = presentedWord s := rfl
  have htake : takeWord (eraseReads s) = eraseReads (takeWord s) := rfl
  cases hl : legalCfg s.build s.cfg with
  | false => simp only [step, eraseReads_build, eraseReads_cfg, hl]; rfl
  | true =>
    simp only [step, eraseReads_build, eraseReads_cfg, eraseReads_opState, hdue, hword, htake, hl, if_true]
    cases resetDue s with
    | true => exact congrArg Host.Outcome.next (eraseReads_resetTick s)
    | false =>
      cases s.opState with
      | busy => exact resume_eraseReads s
      | idle =>
        cases presentedWord s with
        | none => exact idleTick_eraseReads s
        | some w =>
          cases hi : decode w with
          | some i => simp only [hi]; exact exec_eraseReads i (takeWord s)
          | none => simp only [hi]; exact operate_eraseReads (body := fun s => .ok (finish .illegalOp s)) w _ fun a => rfl

/-- Settles O37: the step of the state without its reads is the step of the state, without the reads. -/
theorem registerReadsHaveNoSideEffect : Obligations.RegisterReadsHaveNoSideEffect := by
  unfold Obligations.RegisterReadsHaveNoSideEffect
  intro s
  rw [step_eraseReads]
  cases step s <;> simp [eraseReadsOutcome]

end Sys2Proof.Machine
end

section
/-! PROOF of O34, O35 and O38 (10_state.md R33 to R41): the registers as numbers, and STATUS while an operation is in
progress. -/

namespace Sys2Proof.Machine

/-! ### The registers as numbers -/

theorem boolBit_toNat (b : Bool) : (boolBit b).toNat = if b then 1 else 0 := by cases b <;> rfl

theorem levelBit_toNat (l : Level) : (levelBit l).toNat = if l = .high then 1 else 0 := by cases l <;> rfl

theorem polarityBit_toNat (p : Polarity) : (polarityBit p).toNat = if p = .lightIsOne then 1 else 0 := by
  cases p <;> rfl

theorem opBusyBit_toNat (o : OpState) : (opBusyBit o).toNat = if o = .busy then 1 else 0 := by cases o <;> rfl

/-- A flag at a bit of a register. -/
theorem flag_mul (n : Nat) (p : Prop) [Decidable p] : (if p then n else 0) = n * (if p then 1 else 0) := by
  split <;> simp

/-- STATUS as a number (R33). -/
theorem statusReg_toNat (s : State) :
    (statusReg s).toNat = (opBusyBit s.opState).toNat + 2 * (resultCode s.result).toNat + 16 * (boolBit s.notify).toNat +
      256 * s.lastOp.toNat := by
  simp only [statusReg, append_toNat, BitVec.toNat_ofNat]
  omega

/-- Settles O34: STATUS is the sum of its fields, each at its bit. -/
theorem statusRegisterFields : Obligations.StatusRegisterFields := by
  unfold Obligations.StatusRegisterFields
  intro s
  have hresult : (resultCode s.result).toNat = (match s.result with
      | .none => 0
      | .ok => 1
      | .timeout => 2
      | .transportFailure => 3
      | .invalidInput => 4
      | .illegalOp => 5) := by cases s.result <;> rfl
  have hstatus := statusReg_toNat s
  rw [opBusyBit_toNat, boolBit_toNat, hresult] at hstatus
  exact hstatus

theorem panelReg_toNat (s : State) : (panelReg s).toNat = s.cfg.pw.toNat + 65536 * s.cfg.ph.toNat := by
  simp only [panelReg, append_toNat, BitVec.toNat_ofNat]
  omega

theorem modeCfgReg_toNat (s : State) :
    (modeCfgReg s).toNat = (if s.cfg.dcCmdLevel = .high then 1 else 0) + (if s.cfg.csActiveLevel = .high then 2 else 0) +
      (if s.cfg.rstRunLevel = .high then 4 else 0) + (if s.cfg.busyActiveLevel = .high then 8 else 0) +
      (if s.cfg.polarity = .lightIsOne then 16 else 0) + (if s.cfg.notifyEn then 32 else 0) +
      (if s.cfg.ch16 then 64 else 0) := by
  rw [flag_mul 2, flag_mul 4, flag_mul 8, flag_mul 16, flag_mul 32, flag_mul 64]
  simp only [modeCfgReg, append_toNat, BitVec.toNat_ofNat, boolBit_toNat, levelBit_toNat, polarityBit_toNat]
  ring

theorem pinShReg_toNat (s : State) :
    (pinShReg s).toNat = (shadowCode s.dcSh).toNat + 4 * (shadowCode s.csSh).toNat + 16 * (shadowCode s.rstSh).toNat := by
  simp only [pinShReg, append_toNat, BitVec.toNat_ofNat]
  omega

/-- Settles O35: each register is the sum of its fields, each at its bit. -/
theorem registerMap : Obligations.RegisterMap := by
  unfold Obligations.RegisterMap
  intro s code hlow hhigh hunknown
  have hcode (v : Shadow) : (shadowCode v).toNat = code v := by cases v <;> simp [shadowCode, *]
  refine ⟨rfl, rfl, rfl, rfl, panelReg_toNat s, modeCfgReg_toNat s, ?_, ?_, rfl, ?_, ?_, rfl, rfl, rfl, rfl⟩
  · rw [← hcode, ← hcode, ← hcode]; exact pinShReg_toNat s
  · rw [show readReg s 8 = BitVec.ofNat 32 s.elapsed from rfl, BitVec.toNat_ofNat]
  · rw [show readReg s 10 = (0#17 ++ s.build.pbufSize : BitVec 32) from rfl, append_toNat]; simp
  · rw [show readReg s 11 = (0#3 ++ s.build.srcHMax ++ 0#3 ++ s.build.srcWMax : BitVec 32) from rfl]
    simp only [append_toNat, BitVec.toNat_ofNat]
    omega

/-! ### STATUS during an operation -/

/-- STATUS as it reads at the start of every tick in which operation `i`, accepted in state `a`, is in progress. -/
theorem OnTheWay.status {i : Instr} {a v : State} (h : OnTheWay i a v) :
    (readReg v 0).toNat =
      1 + 16 * (if i = .wait ∧ a.cfg.notifyEn = true ∨ a.notify = true then 1 else 0) + 256 * ((encode i).toNat / 2 ^ 28) := by
  rw [show readReg v 0 = statusReg v from rfl, statusReg_toNat, h.opState, h.result, h.notify, h.lastOp, fieldOp_toNat,
    boolBit_toNat]
  simp [opBusyBit, resultCode]

/-- The one register read, of STATUS and in tick `n`, is still to come, or was answered with `x`. -/
def StatusRead (n x : Nat) (old : List RegReply) (u : State) : Prop :=
  (u.env.regReads = [(n, 0)] ∧ u.env.regReplies = old ∧ u.env.now ≤ n) ∨
    (u.env.regReads = [] ∧ ∃ v : BitVec 32, u.env.regReplies = old ++ [⟨n, 0, v⟩] ∧ v.toNat = x)

theorem statusRead_tick {n x : Nat} {old : List RegReply} {u : State} (hn : NoReset u) (hx : (readReg u 0).toNat = x)
    (h : StatusRead n x old u) : StatusRead n x old (tick u) := by
  rw [tick_eq hn]
  rcases h with ⟨hreads, hold, hle⟩ | ⟨hreads, v, hv, hvx⟩
  · rcases Nat.lt_or_eq_of_le hle with hlt | rfl
    · have hnone : readPort u = u := by simp [readPort, hreads, hlt]
      rw [hnone]
      exact .inl ⟨by simpa using hreads, by simpa using hold, by simpa using hlt⟩
    · obtain ⟨hreads', hreply⟩ := readPort_due hreads le_rfl
      exact .inr ⟨by simpa using hreads', readReg u 0, by simpa [hold] using hreply, hx⟩
  · rw [readPort_none hreads]
    exact .inr ⟨by simpa using hreads, v, by simpa using hv, hvx⟩

/-- Settles O38: the read is answered in its tick, in which the operation is in progress. -/
theorem statusReadsBusyDuringOperation : Obligations.StatusReadsBusyDuringOperation := by
  unfold Obligations.StatusReadsBusyDuringOperation
  intro i s t k hn hreads hk h hlt
  have hport : readPort s = s := by simp [readPort, hreads]; omega
  obtain ⟨x, hx⟩ : ∃ x, x = 1 + 16 * (if i = .wait ∧ s.cfg.notifyEn = true ∨ s.notify = true then 1 else 0) +
    256 * ((encode i).toNat / 2 ^ 28) := ⟨_, rfl⟩
  have hread : Ran i (accept (encode i) s) t ∧ StatusRead (s.env.now + k) x s.env.regReplies t := by
    refine exec_keeps
      (P := fun u => Ran i (accept (encode i) s) u ∧ StatusRead (s.env.now + k) x s.env.regReplies u) h
      (fun s1 hs => ?_) (fun u hb hu => ?_)
    · rw [hport] at hs
      refine ⟨hs.moved.ran, .inl ?_⟩
      cases hs <;> simp [hreads] <;> omega
    · obtain ⟨hran, hstatus⟩ := hu
      have hway : OnTheWay i (accept (encode i) s) u := hran.resolve_right fun he => by simp [he.opState] at hb
      exact ⟨ran_tick hb hran, statusRead_tick (hway.resets.trans hn) (hway.status.trans hx.symm) hstatus⟩
  rcases hread.2 with ⟨-, -, hle⟩ | ⟨-, v, hv, hvx⟩
  · omega
  · exact ⟨v, hv, hvx.trans hx⟩

end Sys2Proof.Machine
end

section
/-! PROOF of O4 (30_encoding.md R95) and O6 (R91). Which words are illegal is the decoder's case split read as numbers; an
illegal word is turned away in its acceptance tick like an operation that fails its checks. -/

namespace Sys2Proof

/-- A field is not 0 exactly when one of its bits is set. -/
theorem extractLsb'_ne_zero_iff {w : Word} {start len : Nat} :
    w.extractLsb' start len ≠ 0 ↔ ∃ k, start ≤ k ∧ k < start + len ∧ w.getLsbD k = true := by
  constructor
  · intro h
    by_contra hc
    refine h (BitVec.eq_of_getLsbD_eq fun j hj => ?_)
    rw [BitVec.getLsbD_extractLsb']
    have : w.getLsbD (start + j) ≠ true := fun hb => hc ⟨start + j, by omega, by omega, hb⟩
    simpa [hj] using this
  · rintro ⟨k, hk, hlt, hb⟩ h
    have := congrArg (fun x => x.getLsbD (k - start)) h
    simp only [BitVec.getLsbD_extractLsb', Nat.add_sub_cancel' hk, hb] at this
    simp at this
    omega

theorem decode_eq_none_iff (w : Word) :
    decode w = none ↔ (w.toNat / 2 ^ 28 = 0 ∨ 8 ≤ w.toNat / 2 ^ 28) ∨
      ((w.toNat / 2 ^ 28 = 1 ∨ w.toNat / 2 ^ 28 = 2 ∨ w.toNat / 2 ^ 28 = 7) ∧ fieldZeroB w ≠ 0) ∨
      ((w.toNat / 2 ^ 28 = 4 ∨ w.toNat / 2 ^ 28 = 5) ∧ fieldZeroZ w ≠ 0) ∨
      (w.toNat / 2 ^ 28 = 6 ∧ fieldZeroP w ≠ 0) := by
  simp only [decode, fieldOp_eq_iff, BitVec.reduceToNat]
  generalize w.toNat / 2 ^ 28 = n
  split_ifs <;> simp_all
  omega

theorem fieldZeroB_ne_zero_iff {w : Word} : fieldZeroB w ≠ 0 ↔ ∃ k, 8 ≤ k ∧ k ≤ 27 ∧ w.getLsbD k = true := by
  simp only [fieldZeroB, extractLsb'_ne_zero_iff, Nat.lt_succ_iff]

theorem fieldZeroZ_ne_zero_iff {w : Word} : fieldZeroZ w ≠ 0 ↔ ∃ k, k ≤ 27 ∧ w.getLsbD k = true := by
  simp only [fieldZeroZ, extractLsb'_ne_zero_iff, Nat.lt_succ_iff, Nat.zero_le, true_and]

theorem fieldZeroP_ne_zero_iff {w : Word} : fieldZeroP w ≠ 0 ↔ w.getLsbD 27 = true := by
  rw [fieldZeroP, extractLsb'_ne_zero_iff]
  constructor
  · rintro ⟨k, h1, h2, h⟩
    obtain rfl : k = 27 := by omega
    exact h
  · exact fun h => ⟨27, le_rfl, by omega, h⟩

theorem fieldOp_eq_ofNat (w : Word) : fieldOp w = BitVec.ofNat 4 (w.toNat / 2 ^ 28) := by
  rw [← fieldOp_toNat, BitVec.ofNat_toNat, BitVec.setWidth_eq]

end Sys2Proof

namespace Sys2Proof.Machine

/-- A step of a ready block to which a legal word is presented. -/
theorem step_of_legalWord {s : State} {w : Word} {i : Instr} (hr : Ready s) (hd : resetDue s = false)
    (hw : presentedWord s = some w) (hi : decode w = some i) : step s = exec i (takeWord s) := by
  obtain ⟨hl, ho⟩ := hr
  simp [step, hl, hd, ho, hw, hi]

/-- A step of a ready block to which an illegal word is presented. -/
theorem step_of_illegalWord {s : State} {w : Word} (hr : Ready s) (hd : resetDue s = false)
    (hw : presentedWord s = some w) (hi : decode w = none) : step s = execIllegal w (takeWord s) := by
  obtain ⟨hl, ho⟩ := hr
  simp [step, hl, hd, ho, hw, hi]

/-- Settles O4: the decoder rejects exactly those words, and `operate` turns one away in its acceptance tick. -/
theorem illegalWordFinishesIllegalOp : Obligations.IllegalWordFinishesIllegalOp := by
  unfold Obligations.IllegalWordFinishesIllegalOp
  refine ⟨fun w => ?_, fun w s hr hd hw hi => ?_⟩
  · rw [decode_eq_none_iff, fieldZeroB_ne_zero_iff, fieldZeroZ_ne_zero_iff, fieldZeroP_ne_zero_iff]
  · rw [step_of_illegalWord hr hd hw hi, execIllegal, operate_ready_finish (s := takeWord s) hr rfl, readPort_takeWord, fieldOp_eq_ofNat]
    simp [takeWord]

/-- The host's next word is presented to a block in which no reset is due. -/
theorem resetDue_presentNext (w : Word) (s : State) : resetDue (presentNext w s) = false := by
  unfold resetDue
  split
  · rfl
  · rename_i t c rest h
    have hmem : (t, c) ∈ s.env.resets.filter (fun r => decide (s.env.now < r.1)) := by
      rw [show s.env.resets.filter _ = (t, c) :: rest from h]; exact List.mem_cons_self
    have hlt : s.env.now < t := by simpa using (List.mem_filter.1 hmem).2
    exact decide_eq_false (Nat.not_le.2 hlt)

theorem presentedWord_presentNext (w : Word) (s : State) : presentedWord (presentNext w s) = some w := by
  simp [presentedWord, presentNext]

/-- Settles O6: a ready block to which a legal word is presented runs its operation, and `withFetchWord` presents it. -/
theorem stepRunsPresentedOperation : Obligations.StepRunsPresentedOperation := by
  unfold Obligations.StepRunsPresentedOperation
  refine ⟨fun s w i => step_of_legalWord,
    fun s w i hl hi => step_of_legalWord (w := w) ⟨hl, rfl⟩ (resetDue_presentNext _ s) ?_ hi⟩
  rw [State.withFetchWord, presentedWord_presentNext, BitVec.ofNat_toNat, BitVec.setWidth_eq]

end Sys2Proof.Machine
end

section
/-! PROOF of O45, O47, O50 and O51 (10_state.md R23, R44, 70_reset_and_hazards.md R310, R314): the state after reset, the
reset tick, the refused configuration and the block that waits. -/

namespace Sys2Proof.Machine

theorem memInv_afterReset (b : Build) (c : Cfg) : MemInv (State.afterReset b c) := by
  simp [MemInv, Memory.wf, State.afterReset]

theorem idleInv_afterReset (b : Build) (c : Cfg) : IdleInv (State.afterReset b c) := ⟨rfl, rfl, rfl, rfl, rfl, rfl⟩

/-- Settles O45: after reset the memories are empty and everything is idle. -/
theorem resetMeetsInvariants : Obligations.ResetMeetsInvariants := by
  unfold Obligations.ResetMeetsInvariants
  exact fun b c => ⟨memInv_afterReset b c, idleInv_afterReset b c, rfl, memInv_afterReset _ _, idleInv_afterReset _ _⟩

/-- With no request outstanding a reset has none to drop. -/
theorem dropOutstanding_none {s : State} (h : s.env.outstanding = none) : dropOutstanding s = s := by
  simp [dropOutstanding, h]

/-- Settles O47: in the tick of a reset the step is the reset tick, whose state is the one after reset but for what a reset
leaves alone. -/
theorem resetTickGivesResetValues : Obligations.ResetTickGivesResetValues := by
  unfold Obligations.ResetTickGivesResetValues
  intro s r c rest hl hr hle ho
  have hstep : step s = .next (resetTick s) := by simp [step, hl, resetDue, hr, hle]
  refine ⟨_, hstep, ?_⟩
  rw [resetTick_cons hr, resetBlock, dropOutstanding_none (by exact ho)]
  exact ⟨rfl, rfl, rfl, rfl, rfl, rfl, rfl, rfl, rfl, rfl, rfl, rfl, rfl, rfl, rfl, rfl, fun _ => rfl, fun _ => rfl, rfl,
    rfl, rfl, rfl, rfl, rfl, rfl, rfl⟩

/-- Every operation is its word and its body under `operate`. -/
theorem exec_eq_operate (i : Instr) (s : State) : ∃ body, exec i s = operate (encode i) body s := by
  cases i <;>
    simp only [exec, execCmd, execData, execDatab, execWait, execRstp, execPackFull, execPackSub, execFill] <;>
    exact ⟨_, rfl⟩

theorem operate_of_not_legal {w : Word} {body : State → Except Fault State} {s : State}
    (h : legalCfg s.build s.cfg = false) : operate w body s = .refused .illegalConfig := by
  simp [operate, h]

/-- Settles O50: legality asks for each of those conditions, and without it neither `step` nor `operate` goes on. -/
theorem illegalConfigurationIsRefused : Obligations.IllegalConfigurationIsRefused := by
  unfold Obligations.IllegalConfigurationIsRefused
  intro s h
  have hl : legalCfg s.build s.cfg = false := by
    rw [← Bool.not_eq_true, legalCfg_iff, fullLen_eq]
    exact fun ⟨h1, h2, h3, h4, _, h6, h7⟩ => h ⟨h1, h2, h3, h4, h6, h7⟩
  refine ⟨by simp [step, hl], fun i => ?_⟩
  obtain ⟨body, hi⟩ := exec_eq_operate i s
  rw [hi, operate_of_not_legal hl]

/-- A ready block to which nothing is presented. -/
theorem step_nothing_presented {s : State} (hr : Ready s) (hd : resetDue s = false) (hw : presentedWord s = none)
    (ht : s.env.txns = []) (hreads : s.env.regReads = []) : step s = .next (endTick s) := by
  obtain ⟨hl, ho⟩ := hr
  simp [step, hl, hd, ho, hw, idleTick, readPort_none hreads, memPort, ht]

/-- Settles O51: with nothing presented every port does nothing, and after reset nothing is presented. -/
theorem idleBlockWaits : Obligations.IdleBlockWaits := by
  unfold Obligations.IdleBlockWaits
  exact ⟨fun s hr hd hw ht hreads => step_nothing_presented hr hd hw ht hreads,
    fun b c hl => step_nothing_presented ⟨hl, rfl⟩ rfl rfl rfl rfl⟩

end Sys2Proof.Machine
end

section
/-! PROOF of O1, O52 to O55 (43_panel_protocol.md Parts 1 and 2): the words of fixed lines are computed. A program depends on
the configuration only through PW, PH, the buffer's length and the fill byte. -/

namespace Sys2Proof.Machine

/-- Settles O1: each word is decoded. -/
theorem sampleWordsDecode : Obligations.SampleWordsDecode := by
  unfold Obligations.SampleWordsDecode
  decide

/-- Settles O52: each list of lines is assembled. -/
theorem panelCommandWords : Obligations.PanelCommandWords := by
  unfold Obligations.PanelCommandWords
  decide

section
variable {c : Cfg} (hw : c.pw = 122) (hh : c.ph = 250)
include hw hh

/-- The buffer of the 122 × 250 panel has 4000 bytes. -/
theorem fullLen_122_250 : fullLen c = 4000 := by rw [fullLen_eq, hw, hh]; rfl

theorem initLines_122_250 : initLines c = initLines Cfg.ex := by
  simp only [initLines, hw, hh]; rfl

theorem drawLines_122_250 (w h : Nat) : drawLines c w h = drawLines Cfg.ex w h := by
  simp only [drawLines, fullLen_122_250 hw hh, fullLen_122_250 (c := Cfg.ex) rfl rfl]

theorem clearLines_122_250 (toWhite : Bool) :
    clearLines c toWhite = clearLines { Cfg.ex with polarity := c.polarity } toWhite := by
  simp only [clearLines, clearByte, fullLen_122_250 hw hh,
    fullLen_122_250 (c := { Cfg.ex with polarity := c.polarity }) rfl rfl]

omit hh in
theorem partialLines_122 (w h : Nat) : partialLines c w h = partialLines Cfg.ex w h := by
  simp only [partialLines, stride_eq, hw]; rfl

end

/-- Settles O53: the initialization is that of the example configuration. -/
theorem initializationWords : Obligations.InitializationWords := by
  unfold Obligations.InitializationWords
  intro c hw hh
  rw [initLines_122_250 hw hh]
  decide

/-- Settles O54: for each polarity and each colour the words are computed. -/
theorem clearWords : Obligations.ClearWords := by
  unfold Obligations.ClearWords
  intro c toWhite hw hh
  rw [clearLines_122_250 hw hh]
  cases c.polarity <;> cases toWhite <;> decide

/-- Settles O55: the two draws and the partial draw are those of the example configuration. -/
theorem drawWords : Obligations.DrawWords := by
  unfold Obligations.DrawWords
  intro c hw hh
  rw [drawLines_122_250 hw hh, drawLines_122_250 hw hh, partialLines_122 hw]
  decide

/-- Settles O28: a channel that fits its width is its number, and the comparison is between integers. -/
theorem classificationThresholds : Obligations.ClassificationThresholds := by
  unfold Obligations.ClassificationThresholds
  refine ⟨fun c r g b hc hr hg hb => ?_, fun c r g b hc => ?_⟩
  · have hchannel (v : BitVec 16) (hv : v.toNat ≤ 255) : channel c v = v.toNat := by
      simp only [channel, hc, Bool.false_eq_true, if_false, BitVec.extractLsb'_toNat, Nat.shiftRight_zero]
      omega
    simp only [classify, channelMax, hc, hchannel r hr, hchannel g hg, hchannel b hb, decide_eq_true_eq,
      Bool.false_eq_true, if_false]
    omega
  · simp only [classify, channel, channelMax, hc, decide_eq_true_eq, if_true]
    omega

end Sys2Proof.Machine
end

section
/-! PROOF of O57 to O60 (43_panel_protocol.md R252, R259, R260, R263, 70_reset_and_hazards.md R313): the branches of the
host's programs. -/

namespace Sys2Proof.Machine

/-- A window that is not within the panel is none (R263). -/
theorem windowOf_eq_none {c : Cfg} {ox oy : Int} {w h : Nat}
    (hn : ¬ (1 ≤ w ∧ 1 ≤ h ∧ 0 ≤ ox ∧ 0 ≤ oy ∧ ox + w ≤ c.pw.toNat ∧ oy + h ≤ c.ph.toNat)) :
    windowOf c ox oy w h = none := if_neg hn

theorem hostPartial_rejects {img : Image} {ox oy : Int} {d : Driver} (hp : d.phase = .ready)
    (hn : ¬ (1 ≤ img.w ∧ 1 ≤ img.h ∧ 0 ≤ ox ∧ 0 ≤ oy ∧ ox + img.w ≤ d.machine.cfg.pw.toNat ∧
      oy + img.h ≤ d.machine.cfg.ph.toNat)) : hostPartial img ox oy d = .failed .invalidInput d := by
  simp only [hostPartial, hp, if_true, windowOf_eq_none hn]

/-- Settles O57: the window is checked before anything else; 120 + 10 is past column 121. -/
theorem partialDrawOutsidePanelRejected : Obligations.PartialDrawOutsidePanelRejected := by
  unfold Obligations.PartialDrawOutsidePanelRejected
  refine ⟨fun img ox oy d hp hn => hostPartial_rejects hp hn, fun img d hp hpw hw _ => hostPartial_rejects hp ?_⟩
  rintro ⟨-, -, -, -, hx, -⟩
  rw [hw, hpw] at hx
  exact absurd hx (by decide)

/-- Every failure that construction reports leaves no handle (R252). -/
theorem hostConstruct_failed {k : Construction} {s : State} {e : HostError} {d : Driver}
    (h : hostConstruct k s = .failed e d) : ∃ m, d = noHandle m := by
  unfold hostConstruct at h
  split_ifs at h
  · cases h; exact ⟨_, rfl⟩
  · cases h; exact ⟨_, rfl⟩
  · split at h
    · cases h
    · cases h; exact ⟨_, rfl⟩
    · rename_i hne; exact absurd h (hne e d)

/-- Settles O58: the two checks come first and in that order, and every failure leaves no handle. -/
theorem constructionOrder : Obligations.ConstructionOrder := by
  unfold Obligations.ConstructionOrder
  refine ⟨fun k s ho => ?_, fun k s ho hv hf => ?_, fun k s e d h => ?_⟩
  · simp [hostConstruct, ho]
  · have hnot : (k.dcFound && k.csFound && k.rstFound && k.busyFound) = false := by
      rcases hf with h | h | h | h <;> simp [h]
    simp [hostConstruct, ho, hv, hnot]
  · obtain ⟨m, rfl⟩ := hostConstruct_failed h
    exact ⟨rfl, rfl⟩

/-- Close of a Ready handle is Sleep and the release of the transport (R259). -/
theorem hostClose_ready {d : Driver} (h : d.phase = .ready) :
    (∀ d', hostSleep d = .done d' → hostClose d = .done (releaseBus d')) ∧
      (∀ e d', hostSleep d = .failed e d' → hostClose d = .failed e (releaseBus d')) := by
  refine ⟨fun d' hs => ?_, fun e d' hs => ?_⟩ <;> simp only [hostClose, h, hs]

theorem hostClose_sleeping {d : Driver} (h : d.phase = .sleeping) : hostClose d = .done (releaseBus d) := by
  simp only [hostClose, h]

/-- A handle that Close leaves, with or without an error, is one whose transport was released. -/
theorem hostClose_releases {d d' : Driver} (hp : d.phase = .ready ∨ d.phase = .sleeping)
    (h : hostClose d = .done d' ∨ ∃ e, hostClose d = .failed e d') : ∃ d1, d' = releaseBus d1 := by
  rcases hp with hp | hp
  · cases hs : hostSleep d with
    | done d1 => rw [(hostClose_ready hp).1 d1 hs] at h; rcases h with h | ⟨e, h⟩ <;> cases h; exact ⟨d1, rfl⟩
    | failed e d1 => rw [(hostClose_ready hp).2 e d1 hs] at h; rcases h with h | ⟨e, h⟩ <;> cases h; exact ⟨d1, rfl⟩
    | fault | refused | noMeaning => simp [hostClose, hp, hs] at h
  · rw [hostClose_sleeping hp] at h
    rcases h with h | ⟨e, h⟩ <;> cases h
    exact ⟨d, rfl⟩

/-- Settles O59: by the phase of the handle and what Sleep returns. -/
theorem closeReleasesTransport : Obligations.CloseReleasesTransport := by
  unfold Obligations.CloseReleasesTransport
  refine ⟨fun d hp => ⟨fun d' h => ?_, fun e d' h => ?_⟩, fun d hp => by simp only [hostClose, hp],
    fun d d' e hp => (hostClose_ready hp).2 e d', fun d d' hp => (hostClose_ready hp).1 d', fun d => hostClose_sleeping⟩
  · obtain ⟨d1, rfl⟩ := hostClose_releases hp (.inl h); exact ⟨rfl, rfl⟩
  · obtain ⟨d1, rfl⟩ := hostClose_releases hp (.inr ⟨e, h⟩); exact ⟨rfl, rfl⟩

/-- The first line of a program: with OK the program goes on, with a typed error it stops there (R260). -/
theorem runProgram_cons {p : Phase} {l : AsmLine} {rest : List (Phase × AsmLine)} {d : Driver} {w : Word} {t : State}
    (hw : l.assemble = some w) (hs : step (hostPresent w d.machine) = .next t) :
    (t.result = .ok → runProgram ((p, l) :: rest) d = runProgram rest { d with phase := p, machine := t }) ∧
      ∀ e, hostErrorOf t.result = some e →
        runProgram ((p, l) :: rest) d = .failed e { d with phase := p, machine := t } := by
  refine ⟨fun hr => ?_, fun e he => ?_⟩
  · simp only [runProgram, hw, hs, hr, if_true]
  · have hne : t.result ≠ .ok := fun hr => by simp [hr, hostErrorOf] at he
    simp only [runProgram, hw, hs, hne, if_false, he]

/-- Settles O60: the typed error of each result. -/
theorem programStopsAtFirstFailure : Obligations.ProgramStopsAtFirstFailure := by
  unfold Obligations.ProgramStopsAtFirstFailure
  intro p l rest d w t hw hs
  obtain ⟨hok, hfail⟩ := runProgram_cons (p := p) (rest := rest) hw hs
  exact ⟨fun h => hfail _ (by rw [h]; rfl), fun h => hfail _ (by rw [h]; rfl), fun h => hfail _ (by rw [h]; rfl), hok⟩

end Sys2Proof.Machine
end

section
/-! PROOF of O11, O22 and O24 (40_framer.md R131, 42_packer.md R196, R202) and of O12 and O25 (20_memory.md R68): what stops an
operation in its acceptance tick. -/

namespace Sys2Proof.Machine

/-! ### Operands that fail their check -/

/-- Settles O11: DATAB's check fails, so `operate` turns it away. -/
theorem databBadRangeIsInvalidInput : Obligations.DatabBadRangeIsInvalidInput := by
  unfold Obligations.DatabBadRangeIsInvalidInput
  intro len addr s hr hbad
  have hv := (databInvalid_iff s.build len addr).2 hbad
  rw [exec, execDatab, operate_ready_finish (code := .invalidInput) hr (by simp [hv]), fieldOp_datab]

/-- Settles O22: PACK.FULL's size check fails, so `operate` turns it away. -/
theorem packFullOtherSizeIsInvalidInput : Obligations.PackFullOtherSizeIsInvalidInput := by
  unfold Obligations.PackFullOtherSizeIsInvalidInput
  intro w h s hr hn hnt
  have ho : fullOrientation s.cfg w h = none := fullOrientation_eq_none_iff.2 (by rintro (h | h) <;> contradiction)
  rw [exec, execPackFull, operate_ready_finish (code := .invalidInput) hr (by simp [ho]), fieldOp_packFull]

/-- Settles O24: PACK.SUB's check fails, so `operate` turns it away. -/
theorem packSubOutsideSourceIsInvalidInput : Obligations.PackSubOutsideSourceIsInvalidInput := by
  unfold Obligations.PackSubOutsideSourceIsInvalidInput
  intro w h s hr hbad
  have hv := (subInvalid_iff s.build w h).2 hbad
  rw [exec, execPackSub, operate_ready_finish (code := .invalidInput) hr (by simp [hv]), fieldOp_packSub]

/-! ### Unwritten cells -/

theorem exec_datab_fault {len addr : BitVec 14} {s : State} {a : Nat} (hr : Ready s)
    (hv : databInvalid s.build len addr = false) (ha : s.pbuf.firstUnwritten addr.toNat len.toNat = some a) :
    exec (.datab len addr) s =
      .fault (raiseUninitPbuf a (accept (encode (.datab len addr)) (readPort s))) := by
  rw [exec, execDatab]
  exact operate_ready_error hr (by simp [hv, ha])

/-- Settles O12: the first unwritten byte of the range is the one DATAB faults at. -/
theorem databUnwrittenByteFaults : Obligations.DatabUnwrittenByteFaults := by
  unfold Obligations.DatabUnwrittenByteFaults
  rintro len addr s hr hlen hrange ⟨k, hk, hun⟩
  have hv : databInvalid s.build len addr = false := by
    rw [← Bool.not_eq_true, databInvalid_iff]; omega
  cases ha : s.pbuf.firstUnwritten addr.toNat len.toNat with
  | none =>
    have := Memory.firstUnwritten_eq_none.1 ha (addr.toNat + k) (by omega) (by omega)
    simp [hun] at this
  | some a =>
    obtain ⟨hle, hlt, hnone, -⟩ := Memory.firstUnwritten_eq_some.1 ha
    exact ⟨a, _, exec_datab_fault hr hv ha, hle, hlt, hnone, rfl, rfl, rfl, by simp, by simp⟩

/-- What a pack faults with at a cell of its source. -/
def packFault (i : Instr) (c : Nat × Nat) (s : State) : Fault :=
  raiseUninitSrc c.1 c.2 { accept (encode i) (readPort s) with packer := .pRun }

theorem exec_packFull_fault {w h : BitVec 13} {s : State} {c : Nat × Nat} (hr : Ready s)
    (hs : (w = s.cfg.pw ∧ h = s.cfg.ph) ∨ (w = s.cfg.ph ∧ h = s.cfg.pw))
    (hc : firstUnwrittenCell s.src w.toNat 0 h.toNat = some c) :
    exec (.packFull w h) s = .fault (packFault (.packFull w h) c s) := by
  obtain ⟨o, ho⟩ := Option.ne_none_iff_exists'.1 (mt fullOrientation_eq_none_iff.1 (not_not.2 hs))
  rw [exec, execPackFull]
  exact operate_ready_error hr (by simp [ho, packReading, hc, packFault])

theorem exec_packSub_fault {w h : BitVec 13} {s : State} {c : Nat × Nat} (hr : Ready s)
    (hv : subInvalid s.build w h = false) (hc : firstUnwrittenCell s.src w.toNat 0 h.toNat = some c) :
    exec (.packSub w h) s = .fault (packFault (.packSub w h) c s) := by
  rw [exec, execPackSub]
  exact operate_ready_error hr (by simp [hv, packReading, hc, packFault])

/-- Settles O25: the first unwritten cell of the source is the one the pack faults at, PST already P_RUN. -/
theorem packUnwrittenCellFaults : Obligations.PackUnwrittenCellFaults := by
  unfold Obligations.PackUnwrittenCellFaults
  rintro i w h s hr hi ⟨x, y, hx, hy, hun⟩
  cases hc : firstUnwrittenCell s.src w.toNat 0 h.toNat with
  | none =>
    have := firstUnwrittenCell_eq_none.1 hc x y hx (by omega) (by omega)
    simp [hun] at this
  | some c =>
    have hfault : exec i s = .fault (packFault i c s) := by
      rcases hi with ⟨rfl, hs⟩ | ⟨rfl, hw, hh⟩
      · exact exec_packFull_fault hr hs hc
      · refine exec_packSub_fault hr ?_ hc
        rw [← Bool.not_eq_true, subInvalid_iff]; omega
    obtain ⟨hcx, -, hcy, hnone⟩ := firstUnwrittenCell_spec hc
    exact ⟨c.1, c.2, _, hfault, hcx, by omega, hnone, rfl, rfl, rfl, rfl, by simp, by simp⟩

end Sys2Proof.Machine
end

section
/-! PROOF of O30 and O31 (20_memory.md R64, R68, R69). A transaction in range is one write, or one answer with what is
written, or the fault; the tick around it is that of O32. -/

namespace Sys2Proof.Machine

@[simp] theorem handOver_cfg (s : State) : (handOver s).cfg = s.cfg := readPort_cfg s

theorem performTxn_pbWr {s : State} {a : Nat} (v : Byte) (h : a < s.build.pbufSize.toNat) :
    performTxn (.pbWr a v) s = .ok (replyMem none false { s with pbuf := s.pbuf.write a v }) := by
  simp [performTxn, pbufInRange, h]

theorem performTxn_pbRd {s : State} {a : Nat} (h : a < s.build.pbufSize.toNat) :
    (∀ v, s.pbuf.read a = some v → performTxn (.pbRd a) s = .ok (replyMem (some v) false s)) ∧
      (s.pbuf.read a = none → performTxn (.pbRd a) s = .error (raiseUninitPbuf a s)) := by
  constructor <;> intros <;> simp [performTxn, pbufInRange, *]

theorem performTxn_srcWr {s : State} {x y : Nat} (d : Bool) (hx : x < s.build.srcWMax.toNat)
    (hy : y < s.build.srcHMax.toNat) :
    performTxn (.srcWr x y d) s = .ok (replyMem none false { s with src := s.src.write (srcKey x y) d }) := by
  simp [performTxn, writeSrc, srcInRange, hx, hy]

/-- A true-colour sample is written as its classification. -/
theorem performTxn_srcWrRgb (x y : Nat) (r g b : BitVec 16) (s : State) :
    performTxn (.srcWrRgb x y r g b) s = performTxn (.srcWr x y (classify s.cfg r g b)) s := rfl

theorem performTxn_srcRd {s : State} {x y : Nat} (hx : x < s.build.srcWMax.toNat) (hy : y < s.build.srcHMax.toNat) :
    (∀ d, s.src.read (srcKey x y) = some d →
        performTxn (.srcRd x y) s = .ok (replyMem (some (darkByteOf d)) false s)) ∧
      (s.src.read (srcKey x y) = none → performTxn (.srcRd x y) s = .error (raiseUninitSrc x y s)) := by
  constructor <;> intros <;> simp [performTxn, srcInRange, *]

/-- A tick in which the port meets an unwritten cell. -/
theorem step_of_performTxn_error {s : State} {x : MemTxn} {f : Fault} (h : PortServes s x)
    (hx : performTxn x (handOver s) = .error f) : step s = .fault f := by
  have hm := (memPort_readPort_of_portServes h).trans hx
  obtain ⟨⟨hl, ho⟩, hd, hw, -⟩ := h
  simp [step, hl, ho, hd, hw, idleTick, hm]

/-- A tick in which the port writes a cell of SRC. -/
theorem step_srcWrite {s : State} {t : MemTxn} {x y : Nat} {d : Bool} (hp : PortServes s t)
    (hx : x < s.build.srcWMax.toNat) (hy : y < s.build.srcHMax.toNat)
    (ht : performTxn t (handOver s) = performTxn (.srcWr x y d) (handOver s)) :
    ∃ u, step s = .next u ∧ u.src.read (srcKey x y) = some d ∧
      (∀ x' y', x' < s.build.srcWMax.toNat → ¬ (x' = x ∧ y' = y) →
        u.src.read (srcKey x' y') = s.src.read (srcKey x' y')) ∧ u.pbuf = s.pbuf ∧
      u.env.memReplies = s.env.memReplies ++ [⟨s.env.now, none, false⟩] ∧ u.env.txns = s.env.txns.tail ∧
      OnlyPortsMoved s u := by
  have hok := ht.trans (performTxn_srcWr (s := handOver s) d (by simpa using hx) (by simpa using hy))
  refine ⟨_, step_of_performTxn_ok hp hok, by simp, fun x' y' hx' hne => ?_, by simp, by simp, by simp,
    onlyPortsMoved_of_performTxn hp hok⟩
  have hkey : srcKey x' y' ≠ srcKey x y := fun he =>
    hne (srcKey_inj (hx'.trans s.build.srcWMax.isLt) (hx.trans s.build.srcWMax.isLt) he)
  simpa using Memory.read_write_other s.src d hkey

/-- Settles O30: each write is one write of the memory's own, in the port's tick. -/
theorem memoryPortWrites : Obligations.MemoryPortWrites := by
  unfold Obligations.MemoryPortWrites
  refine ⟨fun s a v hp ha => ?_, fun s x y d hp hx hy => step_srcWrite hp hx hy rfl, fun s x y r g b hp hx hy => ?_⟩
  · have hok := performTxn_pbWr (s := handOver s) v (by simpa using ha)
    refine ⟨_, step_of_performTxn_ok hp hok, by simp, fun b hb => ?_, by simp, by simp, by simp,
      onlyPortsMoved_of_performTxn hp hok⟩
    simpa using Memory.read_write_other s.pbuf v hb
  · refine step_srcWrite hp hx hy ?_
    rw [performTxn_srcWrRgb, handOver_cfg]

/-- A tick in which the port answers a read changes nothing but the ports. -/
theorem step_read {s : State} {x : MemTxn} {b : Byte} (hp : PortServes s x)
    (hok : performTxn x (handOver s) = .ok (replyMem (some b) false (handOver s))) :
    ∃ t, step s = .next t ∧ t.pbuf = s.pbuf ∧ t.src = s.src ∧
      t.env.memReplies = s.env.memReplies ++ [⟨s.env.now, some b, false⟩] ∧ t.env.txns = s.env.txns.tail ∧
      OnlyPortsMoved s t :=
  ⟨_, step_of_performTxn_ok hp hok, by simp, by simp, by simp, by simp, onlyPortsMoved_of_performTxn hp hok⟩

/-- Settles O31: a read of a written cell is one answer, of an unwritten one the fault. -/
theorem memoryPortReads : Obligations.MemoryPortReads := by
  unfold Obligations.MemoryPortReads
  refine ⟨fun s a v hp ha hv => ?_, fun s x y d hp hx hy hd => ?_, fun s a hp ha hv => ?_, fun s x y hp hx hy hd => ?_⟩
  · exact step_read hp ((performTxn_pbRd (s := handOver s) (by simpa using ha)).1 v (by simpa using hv))
  · exact step_read hp ((performTxn_srcRd (s := handOver s) (by simpa using hx) (by simpa using hy)).1 d (by simpa using hd))
  · have herr := (performTxn_pbRd (s := handOver s) (by simpa using ha)).2 (by simpa using hv)
    exact ⟨_, step_of_performTxn_error hp herr, rfl, by simp, by simp⟩
  · have herr := (performTxn_srcRd (s := handOver s) (by simpa using hx) (by simpa using hy)).2 (by simpa using hd)
    exact ⟨_, step_of_performTxn_error hp herr, rfl, by simp, by simp⟩

end Sys2Proof.Machine
end

section
/-! Register reads put aside (10_state.md R32): an operation answers in any state what it answers in the state without the
reads, but for the reads. The runs of the operations are therefore worked out in states without reads. -/

namespace Sys2Proof.Machine

/-- The state with the given register reads scheduled and answered. -/
def withReads (reads : List (Nat × BitVec 4)) (replies : List RegReply) (s : State) : State :=
  { s with env := { s.env with regReads := reads, regReplies := replies } }

theorem eq_withReads {t u : State} (h : eraseReads t = u) : t = withReads t.env.regReads t.env.regReplies u := h ▸ rfl

/-- What an operation answers without the reads it answers with them, but for the reads. -/
theorem exec_of_erased {i : Instr} {s u : State} (h : exec i (eraseReads s) = .next u) :
    ∃ reads replies, exec i s = .next (withReads reads replies u) := by
  rw [exec_eraseReads] at h
  cases ht : exec i s with
  | next t =>
    rw [ht] at h
    exact ⟨_, _, congrArg Host.Outcome.next (eq_withReads (Host.Outcome.next.inj h))⟩
  | fault f => rw [ht] at h; exact Host.Outcome.noConfusion rfl rfl rfl (heq_of_eq h)
  | refused r => rw [ht] at h; exact Host.Outcome.noConfusion rfl rfl rfl (heq_of_eq h)

theorem exec_erased {i : Instr} {s t : State} (h : exec i s = .next t) :
    exec i (eraseReads s) = .next (eraseReads t) := by rw [exec_eraseReads, h]; rfl

/-- A state without reads in which no reset is scheduled. -/
theorem alone_eraseReads {s : State} (h : NoReset s) : Alone (eraseReads s) := ⟨h, rfl⟩

theorem Alone.accept {s : State} (h : Alone s) (w : Word) : Alone (accept w s) := ⟨h.resets, h.reads⟩

/-- An operation that begins in a state without reads. -/
theorem exec_alone {i : Instr} {s s1 : State} (hr : Ready s) (ha : Alone s) (h : Begun (accept (encode i) s) i s1) :
    exec i s = .next (complete (endTick s1)) :=
  exec_of_begun hr (by rwa [readPort_none ha.reads])

/-- How an operation that answers a next state began, in a state without reads. -/
theorem exec_alone_next {i : Instr} {s t : State} (ha : Alone s) (h : exec i s = .next t) :
    Ready s ∧ ∃ s1, Begun (accept (encode i) s) i s1 ∧ t = complete (endTick s1) := by
  have hn := exec_next h
  rwa [readPort_none ha.reads] at hn

end Sys2Proof.Machine
end

section
/-! PROOF of O7 to O10 (40_framer.md R120 to R130): the run of a frame is the returns of its four requests, one after the
other, up to the first that fails. -/

namespace Sys2Proof.Machine

/-! ### The returns of a frame's requests -/

/-- `SetPin(DC, l)` has returned. -/
def dcSet (l : Level) (a : State) : State := returned .fDc (.setPin .dc l) a

/-- `SetPin(CS, active)` has returned. -/
def csSet (l : Level) (a : State) : State := returned .fCsa (.setPin .cs a.cfg.csActiveLevel) (dcSet l a)

/-- `Transmit(bs)` has returned. -/
def transmitted (l : Level) (bs : List Byte) (a : State) : State := returned .fTx (.transmit bs) (csSet l a)

/-- `SetPin(CS, inactive)` has returned. -/
def csCleared (l : Level) (bs : List Byte) (a : State) : State :=
  returned .fCsd (.setPin .cs a.cfg.csActiveLevel.other) (transmitted l bs a)

/-- Where the run of a frame accepted in state `a` ends. -/
def frameEnd (l : Level) (bs : List Byte) (a : State) : State :=
  if (nextAnswer a.env).ok then
    if (nextAnswer (dcSet l a).env).ok then
      if (nextAnswer (csSet l a).env).ok then
        if (nextAnswer (transmitted l bs a).env).ok then endTick (finish .ok (csCleared l bs a))
        else endTick (finish .transportFailure (csCleared l bs a))
      else endTick (finish .transportFailure (transmitted l bs a))
    else endTick (finish .transportFailure (csSet l a))
  else endTick (finish .transportFailure (dcSet l a))

@[simp] theorem returned_setPin_dcSh (st : FramerState) (p : Pin) (l : Level) (s : State) :
    (returned st (.setPin p l) s).dcSh =
      if p = .dc then (if (nextAnswer s.env).ok then shadowOf l else .unknown) else s.dcSh := by simp [returned]
@[simp] theorem returned_setPin_csSh (st : FramerState) (p : Pin) (l : Level) (s : State) :
    (returned st (.setPin p l) s).csSh =
      if p = .cs then (if (nextAnswer s.env).ok then shadowOf l else .unknown) else s.csSh := by simp [returned]
@[simp] theorem returned_setPin_rstSh (st : FramerState) (p : Pin) (l : Level) (s : State) :
    (returned st (.setPin p l) s).rstSh =
      if p = .rst then (if (nextAnswer s.env).ok then shadowOf l else .unknown) else s.rstSh := by simp [returned]
@[simp] theorem returned_transmit_dcSh (st : FramerState) (bs : List Byte) (s : State) :
    (returned st (.transmit bs) s).dcSh = s.dcSh := rfl
@[simp] theorem returned_transmit_csSh (st : FramerState) (bs : List Byte) (s : State) :
    (returned st (.transmit bs) s).csSh = s.csSh := rfl
@[simp] theorem returned_transmit_rstSh (st : FramerState) (bs : List Byte) (s : State) :
    (returned st (.transmit bs) s).rstSh = s.rstSh := rfl

/-- The run of a frame in progress. -/
theorem complete_frame {l : Level} {bs : List Byte} {a : State} (ha : Alone a) (hb : a.opState = .busy)
    (hop : FramerOp a.curOp) (hbs : frameBytes a = bs) :
    complete (endTick (startFrame l a)) = frameEnd l bs a := by
  rw [complete_startFrame l ha hb hop rfl rfl rfl rfl, hbs]
  rfl

/-- What makes an operation a frame begins it: its DC level, its engine and its bytes. -/
theorem FrameOf.begun {s : State} {i : Instr} {l : Level} {bs : List Byte} (h : FrameOf s i l bs) :
    Begun (accept (encode i) s) i (startFrame l (accept (encode i) s)) ∧ FramerOp (encode i) ∧
      frameBytes (accept (encode i) s) = bs := by
  rcases h with ⟨b, rfl, rfl, rfl⟩ | ⟨b, rfl, rfl, rfl⟩ | ⟨len, addr, rfl, hlen, hrange, rfl, hbs, hread⟩
  · exact ⟨.cmd b, by simp [FramerOp], by simp [frameBytes]⟩
  · exact ⟨.data b, by simp [FramerOp], by simp [frameBytes]⟩
  · have hv : databInvalid s.build len addr = false := by
      rw [← Bool.not_eq_true, databInvalid_iff]; omega
    have hr : s.pbuf.readRange addr.toNat len.toNat = some bs :=
      Memory.readRange_eq_some.2 ⟨hbs, fun k hk => by rw [hread k (by omega), List.getElem?_eq_getElem hk]⟩
    have hw : s.pbuf.firstUnwritten addr.toNat len.toNat = none :=
      firstUnwritten_none_of_written fun k hk => by
        rw [hread k hk, List.getElem?_eq_getElem (by omega)]; rfl
    exact ⟨.datab len addr hv hw, by simp [FramerOp], by simp [frameBytes, hr]⟩

/-- A frame in a state without reads. -/
theorem exec_frame_alone {s : State} {i : Instr} {l : Level} {bs : List Byte} (hr : Ready s) (ha : Alone s)
    (hf : FrameOf s i l bs) : exec i s = .next (frameEnd l bs (accept (encode i) s)) := by
  obtain ⟨hb, hop, hbs⟩ := hf.begun
  rw [exec_alone hr ha hb, complete_frame (a := accept (encode i) s) (ha.accept _) rfl hop hbs]

/-- A frame. -/
theorem exec_frame {s : State} {i : Instr} {l : Level} {bs : List Byte} (hr : Ready s) (hn : NoReset s)
    (hf : FrameOf s i l bs) :
    ∃ reads replies, exec i s = .next (withReads reads replies (frameEnd l bs (accept (encode i) (eraseReads s)))) :=
  exec_of_erased (exec_frame_alone (s := eraseReads s) hr (alone_eraseReads hn) hf)

/-- The draws a frame takes. -/
theorem frame_answers {a : State} {a1 a2 a3 a4 : Answer} {rest : List Answer} (l : Level) (bs : List Byte)
    (h : a.env.answers = a1 :: a2 :: a3 :: a4 :: rest) :
    nextAnswer a.env = a1 ∧ nextAnswer (dcSet l a).env = a2 ∧ nextAnswer (csSet l a).env = a3 ∧
      nextAnswer (transmitted l bs a).env = a4 := by
  simp [nextAnswer, dcSet, csSet, transmitted, h]

/-- A frame whose four requests return ok (40_framer.md R120). -/
theorem exec_frame_ok {s : State} {i : Instr} {l : Level} {bs : List Byte} {a1 a2 a3 a4 : Answer} {rest : List Answer}
    (hr : Ready s) (hn : NoReset s) (hf : FrameOf s i l bs) (hans : s.env.answers = a1 :: a2 :: a3 :: a4 :: rest)
    (hok : a1.ok = true ∧ a2.ok = true ∧ a3.ok = true ∧ a4.ok = true) :
    ∃ t t1 t2 t3 t4, t1 = s.env.now + latency a1 ∧ t2 = t1 + latency a2 ∧ t3 = t2 + latency a3 ∧
      t4 = t3 + latency a4 ∧ exec i s = .next t ∧ t.result = .ok ∧ t.opState = .idle ∧ t.framer = .fIdle ∧
      t.dcSh = shadowOf l ∧ t.csSh = shadowOf s.cfg.csActiveLevel.other ∧ t.rstSh = s.rstSh ∧
      t.curOp = encode i ∧ t.lastOp = fieldOp (encode i) ∧ t.pbuf = s.pbuf ∧ t.src = s.src ∧ t.notify = s.notify ∧
      t.env.trace = s.env.trace ++ frameTrace s.cfg l bs s.env.now t1 t2 t3 t4 ++ [⟨t4, .done (encode i) .ok⟩] ∧
      t.env.reached = s.env.reached ++ bs ∧ t.env.now = t4 + 1 := by
  obtain ⟨reads, replies, h⟩ := exec_frame hr hn hf
  obtain ⟨h1, h2, h3, h4⟩ := frame_answers (a := accept (encode i) (eraseReads s)) l bs hans
  obtain ⟨k1, k2, k3, k4⟩ := hok
  simp only [frameEnd, h1, h2, h3, h4, k1, k2, k3, k4, if_true] at h
  refine ⟨_, _, _, _, _, rfl, rfl, rfl, rfl, h, ?_⟩
  simp [withReads, csCleared, transmitted, csSet, dcSet, nextAnswer, hans, k1, k2, k3, k4, replyOf, deliveredBytes,
    frameTrace]

/-- Settles O7: CMD is a frame at the command level. -/
theorem cmdFramesOneCommandByte : Obligations.CmdFramesOneCommandByte := by
  unfold Obligations.CmdFramesOneCommandByte
  intro b s a1 a2 a3 a4 rest hr hn hans hok
  rw [← fieldOp_cmd b]
  exact exec_frame_ok hr hn (.inl ⟨b, rfl, rfl, rfl⟩) hans hok

/-- Settles O8: DATA is a frame at the other level. -/
theorem dataFramesOneDataByte : Obligations.DataFramesOneDataByte := by
  unfold Obligations.DataFramesOneDataByte
  intro b s a1 a2 a3 a4 rest hr hn hans hok
  rw [← fieldOp_data b]
  exact exec_frame_ok hr hn (.inr (.inl ⟨b, rfl, rfl, rfl⟩)) hans hok

/-- Settles O9: DATAB of a written range is a frame of its bytes at the other level. -/
theorem databFramesBufferRange : Obligations.DatabFramesBufferRange := by
  unfold Obligations.DatabFramesBufferRange
  intro len addr bs s a1 a2 a3 a4 rest hr hn hans hok hlen hrange hbs hread
  rw [← fieldOp_datab len addr]
  exact exec_frame_ok hr hn (.inr (.inr ⟨len, addr, rfl, hlen, hrange, rfl, hbs, hread⟩)) hans hok

/-- Settles O10: the run ends at the return of the first request that fails. -/
theorem failedRequestEndsFrame : Obligations.FailedRequestEndsFrame := by
  unfold Obligations.FailedRequestEndsFrame
  intro i l bs s a1 a2 a3 a4 rest hr hn hf hans t1 t2 t3 t4 e1 e2 e3 e4
  obtain ⟨reads, replies, h⟩ := exec_frame hr hn hf
  obtain ⟨h1, h2, h3, h4⟩ := frame_answers (a := accept (encode i) (eraseReads s)) l bs hans
  simp only [frameEnd, h1, h2, h3, h4] at h
  subst e1 e2 e3 e4
  refine ⟨fun k1 => ?_, fun k1 k2 => ?_, fun k1 k2 k3 => ?_, fun k1 k2 k3 k4 => ?_⟩
  · simp only [k1, Bool.false_eq_true, if_false] at h
    refine ⟨_, h, ?_⟩
    simp [withReads, dcSet, nextAnswer, hans, k1, replyOf, deliveredBytes]
  · simp only [k1, k2, Bool.false_eq_true, if_false, if_true] at h
    refine ⟨_, h, ?_⟩
    simp [withReads, csSet, dcSet, nextAnswer, hans, k1, k2, replyOf, deliveredBytes, frameTrace]
  · simp only [k1, k2, k3, Bool.false_eq_true, if_false, if_true] at h
    refine ⟨_, h, ?_⟩
    simp [withReads, transmitted, csSet, dcSet, nextAnswer, hans, k1, k2, k3, replyOf, deliveredBytes, frameTrace]
  · simp only [k1, k2, k3, k4, Bool.false_eq_true, if_false, if_true] at h
    refine ⟨_, h, ?_⟩
    simp [withReads, csCleared, transmitted, csSet, dcSet, nextAnswer, hans, k1, k2, k3, k4, replyOf, deliveredBytes,
      frameTrace]

end Sys2Proof.Machine
end

section
/-! PROOF of O13 and O14 (40_framer.md R140, R142): the run of the reset waveform is the returns of its three requests, each
but for the first issued at the end of a hold, up to the first that fails. -/

namespace Sys2Proof.Machine

/-! ### The edges and the holds of the waveform -/

/-- The first edge has returned. -/
def firstEdge (a : State) : State := returned .rSet1 (.setPin .rst a.cfg.rstRunLevel) { a with fcnt := 0 }

/-- The first hold is over. -/
def firstHeld (a : State) : State := held .rHold1 (firstEdge a)

/-- The second edge has returned. -/
def secondEdge (a : State) : State := returned .rSet2 (.setPin .rst a.cfg.rstRunLevel.other) (firstHeld a)

/-- The delay is over. -/
def delayHeld (a : State) : State := held .rDelay (secondEdge a)

/-- The third edge has returned. -/
def thirdEdge (a : State) : State := returned .rSet3 (.setPin .rst a.cfg.rstRunLevel) (delayHeld a)

/-- The second hold is over. -/
def secondHeld (a : State) : State := held .rHold2 (thirdEdge a)

/-- Where the run of RSTP accepted in state `a` ends. -/
def pulseEnd (a : State) : State :=
  if (nextAnswer a.env).ok then
    if (nextAnswer (firstHeld a).env).ok then
      if (nextAnswer (delayHeld a).env).ok then endTick (finish .ok (secondHeld a))
      else endTick (finish .transportFailure (thirdEdge a))
    else endTick (finish .transportFailure (secondEdge a))
  else endTick (finish .transportFailure (firstEdge a))

/-- The run of the waveform in progress. -/
theorem complete_pulse {a : State} (ha : Alone a) (hb : a.opState = .busy) (hop : FramerOp a.curOp) :
    complete (endTick (startPulse a)) = pulseEnd a := by
  rw [complete_startPulse ha hb hop rfl rfl rfl rfl rfl rfl rfl]
  rfl

theorem exec_rstp_alone {s : State} (hr : Ready s) (ha : Alone s) :
    exec .rstp s = .next (pulseEnd (accept (encode .rstp) s)) := by
  rw [exec_alone hr ha .rstp, complete_pulse (a := accept (encode .rstp) s) (ha.accept _) rfl (by simp [FramerOp])]

theorem exec_rstp {s : State} (hr : Ready s) (hn : NoReset s) :
    ∃ reads replies, exec .rstp s = .next (withReads reads replies (pulseEnd (accept (encode .rstp) (eraseReads s)))) :=
  exec_of_erased (exec_rstp_alone (s := eraseReads s) hr (alone_eraseReads hn))

/-- The draws RSTP takes. -/
theorem pulse_answers {a : State} {a1 a2 a3 : Answer} {rest : List Answer} (h : a.env.answers = a1 :: a2 :: a3 :: rest) :
    nextAnswer a.env = a1 ∧ nextAnswer (firstHeld a).env = a2 ∧ nextAnswer (delayHeld a).env = a3 := by
  simp [nextAnswer, firstHeld, firstEdge, delayHeld, secondEdge, h]

theorem encode_rstp : encode .rstp = 0x50000000 := by decide

/-- Settles O13: the three edges return ok, so the run ends with the second hold. -/
theorem rstpDrivesDoublePulse : Obligations.RstpDrivesDoublePulse := by
  unfold Obligations.RstpDrivesDoublePulse
  intro s a1 a2 a3 rest hr hn hans ⟨k1, k2, k3⟩
  rw [← encode_rstp]
  obtain ⟨reads, replies, h⟩ := exec_rstp hr hn
  obtain ⟨h1, h2, h3⟩ := pulse_answers (a := accept (encode .rstp) (eraseReads s)) hans
  simp only [pulseEnd, h1, h2, h3, k1, k2, k3, if_true] at h
  refine ⟨_, _, _, _, _, _, rfl, rfl, rfl, rfl, rfl, h, ?_⟩
  simp [withReads, secondHeld, thirdEdge, delayHeld, secondEdge, firstHeld, firstEdge, nextAnswer, hans, k1, k2, k3,
    replyOf, holdTicks]

/-- Settles O14: the run ends at the return of the first edge that fails. -/
theorem failedRequestEndsPulse : Obligations.FailedRequestEndsPulse := by
  unfold Obligations.FailedRequestEndsPulse
  intro s a1 a2 a3 rest hr hn hans r1 i2 r2 i3 r3 e1 e2 e3 e4 e5
  obtain ⟨reads, replies, h⟩ := exec_rstp hr hn
  obtain ⟨h1, h2, h3⟩ := pulse_answers (a := accept (encode .rstp) (eraseReads s)) hans
  simp only [pulseEnd, h1, h2, h3] at h
  subst e1 e2 e3 e4 e5
  refine ⟨fun k1 => ?_, fun k1 k2 => ?_, fun k1 k2 k3 => ?_⟩
  · simp only [k1, Bool.false_eq_true, if_false] at h
    refine ⟨_, h, ?_⟩
    simp [withReads, firstEdge, nextAnswer, hans, k1, replyOf, encode_rstp]
  · simp only [k1, k2, Bool.false_eq_true, if_false, if_true] at h
    refine ⟨_, h, ?_⟩
    simp [withReads, secondEdge, firstHeld, firstEdge, nextAnswer, hans, k1, k2, replyOf, holdTicks, encode_rstp]
  · simp only [k1, k2, k3, Bool.false_eq_true, if_false, if_true] at h
    refine ⟨_, h, ?_⟩
    simp [withReads, thirdEdge, delayHeld, secondEdge, firstHeld, firstEdge, nextAnswer, hans, k1, k2, k3, replyOf,
      holdTicks, encode_rstp]

end Sys2Proof.Machine
end


section
/-! PROOF of O15 (40_framer.md sections 2 to 5): every state in which the run of a frame or of the waveform can end. -/

namespace Sys2Proof.Machine

/-- What the framer's operations leave alone. -/
structure FramerKept (s t : State) : Prop where
  pbuf : t.pbuf = s.pbuf
  src : t.src = s.src
  cfg : t.cfg = s.cfg
  build : t.build = s.build
  elapsed : t.elapsed = s.elapsed
  samples : t.samples = s.samples
  notify : t.notify = s.notify
  faulted : t.faulted = s.faulted
  ops : t.env.ops = s.env.ops
  txns : t.env.txns = s.env.txns
  memReplies : t.env.memReplies = s.env.memReplies

theorem frameEnd_kept (l : Level) (bs : List Byte) (a : State) :
    FramerKept a (frameEnd l bs a) ∧ (frameEnd l bs a).rstSh = a.rstSh ∧ (frameEnd l bs a).fcnt = a.fcnt := by
  unfold frameEnd
  split_ifs <;> refine ⟨⟨?_, ?_, ?_, ?_, ?_, ?_, ?_, ?_, ?_, ?_, ?_⟩, ?_, ?_⟩ <;>
    simp [csCleared, transmitted, csSet, dcSet]

theorem pulseEnd_kept (a : State) :
    FramerKept a (pulseEnd a) ∧ (pulseEnd a).dcSh = a.dcSh ∧ (pulseEnd a).csSh = a.csSh := by
  unfold pulseEnd
  split_ifs <;> refine ⟨⟨?_, ?_, ?_, ?_, ?_, ?_, ?_, ?_, ?_, ?_, ?_⟩, ?_, ?_⟩ <;>
    simp [secondHeld, thirdEdge, delayHeld, secondEdge, firstHeld, firstEdge]

theorem finish_kept (code : Result) (a : State) : FramerKept a (endTick (finish code a)) := by
  constructor <;> rfl

/-- An operation is accepted without touching any of it. -/
theorem FramerKept.of_accept {s t : State} {w : Word} (h : FramerKept (accept w s) t) : FramerKept s t :=
  ⟨h.pbuf, h.src, h.cfg, h.build, h.elapsed, h.samples, h.notify, h.faulted, h.ops, h.txns, h.memReplies⟩

/-- Where the framer's operations can end, in a state without reads: a frame or the waveform ran, or DATAB was turned away. -/
theorem exec_framer_next {i : Instr} {s t : State} (ha : Alone s) (h : exec i s = .next t) (hf : FramerOp (encode i)) :
    (i ≠ .rstp ∧ ∃ l bs, t = frameEnd l bs (accept (encode i) s)) ∨
      (i = .rstp ∧ t = pulseEnd (accept (encode i) s)) ∨
      (i ≠ .rstp ∧ t = endTick (finish .invalidInput (accept (encode i) s))) := by
  obtain ⟨hr, s1, hb, ht⟩ := exec_alone_next ha h
  rw [ht]
  have hframe (l : Level) := complete_frame (l := l) (a := accept (encode i) s) (ha.accept _) rfl hf rfl
  have hpulse := complete_pulse (a := accept (encode i) s) (ha.accept _) rfl hf
  have hdone := complete_idle (s := endTick (finish .invalidInput (accept (encode i) s))) rfl
  generalize accept (encode i) s = a at *
  cases hb with
  | cmd | data | datab => exact .inl ⟨by simp, _, _, hframe _⟩
  | databInvalid => exact .inr (.inr ⟨by simp, hdone⟩)
  | rstp => exact .inr (.inl ⟨rfl, hpulse⟩)
  | wait | packFull | packFullInvalid | packSub | packSubInvalid | fill => simp [FramerOp] at hf

theorem exec_framer_kept {i : Instr} {s t : State} (ha : Alone s) (h : exec i s = .next t) (hf : FramerOp (encode i)) :
    FramerKept s t ∧ (i ≠ .rstp → t.rstSh = s.rstSh ∧ t.fcnt = s.fcnt) ∧
      (i = .rstp → t.dcSh = s.dcSh ∧ t.csSh = s.csSh) := by
  rcases exec_framer_next ha h hf with ⟨hi, l, bs, rfl⟩ | ⟨hi, rfl⟩ | ⟨hi, rfl⟩
  · obtain ⟨hk, hsh⟩ := frameEnd_kept l bs (accept (encode i) s)
    exact ⟨hk.of_accept, fun _ => hsh, fun hc => absurd hc hi⟩
  · obtain ⟨hk, hsh⟩ := pulseEnd_kept (accept (encode i) s)
    exact ⟨hk.of_accept, fun hc => absurd hi hc, fun _ => hsh⟩
  · exact ⟨(finish_kept _ _).of_accept, fun _ => ⟨rfl, rfl⟩, fun hc => absurd hc hi⟩

/-- Settles O15: the frame of every end of the framer's operations. -/
theorem framerOperationFrame : Obligations.FramerOperationFrame := by
  unfold Obligations.FramerOperationFrame
  intro i s t hi hn h
  have hf : FramerOp (encode i) := by
    rcases hi with ⟨b, rfl⟩ | ⟨b, rfl⟩ | ⟨n, a, rfl⟩ | rfl <;> simp [FramerOp]
  obtain ⟨hk, hframe, hpulse⟩ := exec_framer_kept (alone_eraseReads hn) (exec_erased h) hf
  exact ⟨fun a => congrArg (Memory.read · a) hk.pbuf, fun k => congrArg (Memory.read · k) hk.src, hk.cfg, hk.build, hk.elapsed, hk.samples,
    hk.notify, hk.faulted, hframe, hpulse, hk.ops, hk.txns, hk.memReplies⟩

end Sys2Proof.Machine
end

section
/-! PROOF of O20, O21, O23, O26, O27 and O56 (42_packer.md): a pack writes the whole buffer in its finishing tick, so its run
is one state. -/

namespace Sys2Proof.Machine

/-! ### The run of a pack -/

/-- The packer has run its ticks and written the buffer. -/
def packDone (a : State) : State :=
  { startPack a with
    pbuf := a.pbuf.setLow (fullLen a.cfg) (packerByte a.cfg a.curOp a.src)
    env := { (startPack a).env with packLeft := 0, now := a.env.now + (nextPackTime a.env + 1) } }

/-- Where the run of a pack accepted in state `a` ends. -/
def packEnd (a : State) : State := endTick (finish .ok (packDone a))

/-- The run of a pack in progress. -/
theorem complete_pack {a : State} (ha : Alone a) (hb : a.opState = .busy) (hop : PackerOp a.curOp) :
    complete (endTick (startPack a)) = packEnd a := complete_startPack ha hb hop

/-- What a pack of state `s` answers after `n` ticks. -/
structure PackedFrom (i : Instr) (s : State) (n : Nat) (t : State) : Prop where
  ticks : 1 ≤ n
  result : t.result = .ok
  opState : t.opState = .idle
  packer : t.packer = .pIdle
  cfg : t.cfg = s.cfg
  build : t.build = s.build
  lastOp : t.lastOp = fieldOp (encode i)
  pbuf : t.pbuf = s.pbuf.setLow (fullLen s.cfg) (packerByte s.cfg (encode i) s.src)
  src : t.src = s.src
  trace : t.env.trace = s.env.trace ++ [⟨s.env.now + n, .done (encode i) .ok⟩]
  now : t.env.now = s.env.now + n + 1
  answers : t.env.answers = s.env.answers
  reached : t.env.reached = s.env.reached
  resets : t.env.resets = s.env.resets

theorem packEnd_packedFrom (i : Instr) (s : State) (reads : List (Nat × BitVec 4)) (replies : List RegReply) :
    PackedFrom i s (nextPackTime (eraseReads s).env + 1)
      (withReads reads replies (packEnd (accept (encode i) (eraseReads s)))) := by
  constructor <;> simp [withReads, packEnd, packDone, Nat.add_assoc]

/-- A pack that begins. -/
theorem exec_pack {s : State} {i : Instr} (hr : Ready s) (hn : NoReset s) (hop : PackerOp (encode i))
    (hb : Begun (accept (encode i) (eraseReads s)) i (startPack (accept (encode i) (eraseReads s)))) :
    ∃ t n, exec i s = .next t ∧ PackedFrom i s n t := by
  have hrun : exec i (eraseReads s) = .next (packEnd (accept (encode i) (eraseReads s))) := by
    rw [exec_alone (s := eraseReads s) hr (alone_eraseReads hn) hb,
      complete_pack (a := accept (encode i) (eraseReads s)) ((alone_eraseReads hn).accept _) rfl hop]
  obtain ⟨reads, replies, h⟩ := exec_of_erased hrun
  exact ⟨_, _, h, packEnd_packedFrom i s reads replies⟩

theorem exec_packFull {s : State} {w h : BitVec 13} {o : Orientation} (hr : Ready s) (hn : NoReset s)
    (ho : fullOrientation s.cfg w h = some o) (hw : SourceWritten s w.toNat h.toNat) :
    ∃ t n, exec (.packFull w h) s = .next t ∧ PackedFrom (.packFull w h) s n t :=
  exec_pack hr hn (by simp [PackerOp]) (.packFull w h o ho (firstUnwrittenCell_none_of_written hw))

theorem exec_packSub {s : State} {w h : BitVec 13} (hr : Ready s) (hn : NoReset s)
    (hww : w.toNat ≤ s.build.srcWMax.toNat) (hhh : h.toNat ≤ s.build.srcHMax.toNat)
    (hw : SourceWritten s w.toNat h.toNat) :
    ∃ t n, exec (.packSub w h) s = .next t ∧ PackedFrom (.packSub w h) s n t := by
  have hv : subInvalid s.build w h = false := by rw [← Bool.not_eq_true, subInvalid_iff]; omega
  exact exec_pack hr hn (by simp [PackerOp]) (.packSub w h hv (firstUnwrittenCell_none_of_written hw))

theorem exec_fill {s : State} (b : Byte) (hr : Ready s) (hn : NoReset s) :
    ∃ t n, exec (.fill b) s = .next t ∧ PackedFrom (.fill b) s n t :=
  exec_pack hr hn (by simp [PackerOp]) (.fill b)

/-! ### The packed buffer -/

section
variable {i : Instr} {s t : State} {n : Nat}

theorem PackedFrom.read_above (h : PackedFrom i s n t) {a : Nat} (ha : (s.cfg.pw.toNat + 7) / 8 * s.cfg.ph.toNat ≤ a) :
    t.pbuf.read a = s.pbuf.read a := by
  rw [h.pbuf, Memory.read_setLow, fullLen_eq, if_neg (by omega)]

theorem PackedFrom.read_below (h : PackedFrom i s n t) {a : Nat} (ha : a < (s.cfg.pw.toNat + 7) / 8 * s.cfg.ph.toNat) :
    t.pbuf.read a = some (packerByte s.cfg (encode i) s.src a) := by
  rw [h.pbuf, Memory.read_setLow, fullLen_eq, if_pos ha]

/-- The byte of a panel row lies in the buffer. -/
theorem byte_of_row_lt {k q m y : Nat} (hk : k < q) (hy : y < m) : k + y * q < q * m := by
  have : (y + 1) * q ≤ m * q := Nat.mul_le_mul_right q hy
  rw [Nat.succ_mul, Nat.mul_comm m] at this
  omega

/-- A pack of laid-out pixels writes every bit of every row. -/
theorem PackedFrom.pixelIs (h : PackedFrom i s n t) {o : Orientation} {w v : Nat}
    (hbyte : ∀ k, packerByte s.cfg (encode i) s.src k = packedByte s.cfg o w v s.src k) {dx dy : Nat}
    (hx : dx < 8 * ((s.cfg.pw.toNat + 7) / 8)) (hy : dy < s.cfg.ph.toNat) :
    PixelIs t dx dy (packedPixel s.cfg o w v s.src dx dy) := by
  refine ⟨_, ?_, packedByte_getLsbD s.cfg o w v s.src (by rwa [stride_eq])⟩
  rw [h.cfg, h.read_below (byte_of_row_lt (by omega) hy), hbyte, stride_eq]

end

theorem packedPixel_of_source {c : Cfg} {o : Orientation} {w h dx dy x y : Nat} {src : Memory Bool} {d : Bool}
    (hs : sourceOf c o w h dx dy = some (x, y)) (hd : src.read (srcKey x y) = some d) :
    packedPixel c o w h src dx dy = bitval c.polarity d := by
  simp [packedPixel, hs, hd]

theorem packedPixel_of_no_source {c : Cfg} {o : Orientation} {w h dx dy : Nat} {src : Memory Bool}
    (hs : sourceOf c o w h dx dy = none) : packedPixel c o w h src dx dy = false := by
  simp [packedPixel, hs]

theorem sourceOf_straight {c : Cfg} {w h x y : Nat} (hx : x < w) (hy : y < h) (hpx : x < c.pw.toNat)
    (hpy : y < c.ph.toNat) : sourceOf c .straight w h x y = some (x, y) := by
  simp [sourceOf, hx, hy, hpx, hpy]

theorem sourceOf_rotated {c : Cfg} {w h x y : Nat} (hx : x < c.ph.toNat) (hy : y < c.pw.toNat) :
    sourceOf c .rotated w h (c.pw.toNat - 1 - y) x = some (x, y) := by
  have h1 : c.pw.toNat - 1 - y < c.pw.toNat := by omega
  have h2 : c.pw.toNat - 1 - (c.pw.toNat - 1 - y) = y := by omega
  simp [sourceOf, hx, h1, h2]

theorem sourceOf_padding {c : Cfg} {o : Orientation} {w h dx dy : Nat} (hx : c.pw.toNat ≤ dx) :
    sourceOf c o w h dx dy = none := by
  simp [sourceOf, Nat.not_lt.2 hx]

theorem sourceOf_dropped {c : Cfg} {w h dx dy : Nat} (hd : ¬ (dx < w ∧ dy < h ∧ dx < c.pw.toNat)) :
    sourceOf c .straight w h dx dy = none := by
  unfold sourceOf
  split_ifs with hpanel hsub
  · exact absurd ⟨hsub.1, hsub.2, hpanel.1⟩ hd
  · rfl
  · rfl

/-- Settles O20: panel pixel (x, y) comes from source pixel (x, y). -/
theorem packFullPlacesEveryPixel : Obligations.PackFullPlacesEveryPixel := by
  unfold Obligations.PackFullPlacesEveryPixel
  rintro w h s hr hn hw hh hsrc
  have ho := fullOrientation_straight hw hh
  obtain ⟨t, n, ht, hp⟩ := exec_packFull hr hn ho hsrc
  have hbyte k : packerByte s.cfg (encode (.packFull w h)) s.src k =
      packedByte s.cfg .straight w.toNat h.toNat s.src k := by rw [packerByte_packFull, ho]; rfl
  refine ⟨t, n, hp.ticks, ht, hp.result, hp.opState, hp.packer, hp.cfg, by simpa using hp.lastOp, ?_, ?_,
    fun _ => hp.read_above, hp.trace, hp.now⟩
  · intro x y d hx hy hd
    rw [← packedPixel_of_source (sourceOf_straight (hw ▸ hx) (hh ▸ hy) hx hy) hd]
    exact hp.pixelIs hbyte (by omega) hy
  · intro dx dy hx hx8 hy
    rw [← packedPixel_of_no_source (sourceOf_padding hx)]
    exact hp.pixelIs hbyte hx8 hy

/-- Settles O21: panel pixel (PW - 1 - y, x) comes from source pixel (x, y). -/
theorem packFullRotatesTransposedImage : Obligations.PackFullRotatesTransposedImage := by
  unfold Obligations.PackFullRotatesTransposedImage
  intro w h s hr hn hw hh hne hsrc
  have ho := fullOrientation_rotated hne hw hh
  obtain ⟨t, n, ht, hp⟩ := exec_packFull hr hn ho hsrc
  have hbyte k : packerByte s.cfg (encode (.packFull w h)) s.src k =
      packedByte s.cfg .rotated w.toNat h.toNat s.src k := by rw [packerByte_packFull, ho]; rfl
  refine ⟨t, n, hp.ticks, ht, hp.result, hp.opState, hp.packer, hp.cfg, ?_, ?_, fun _ => hp.read_above, hp.trace, hp.now⟩
  · intro x y d hx hy hd
    rw [← packedPixel_of_source (sourceOf_rotated hx hy) hd]
    exact hp.pixelIs hbyte (by omega) hx
  · intro dx dy hx hx8 hy
    rw [← packedPixel_of_no_source (sourceOf_padding hx)]
    exact hp.pixelIs hbyte hx8 hy

/-- Settles O23: the pixels inside the sub-image and the panel come from the source, the others from nowhere. -/
theorem packSubPlacesAndDrops : Obligations.PackSubPlacesAndDrops := by
  unfold Obligations.PackSubPlacesAndDrops
  intro w h s hr hn hw hh hsrc
  obtain ⟨t, n, ht, hp⟩ := exec_packSub hr hn hw hh hsrc
  have hbyte k := packerByte_packSub s.cfg w h s.src k
  refine ⟨t, n, hp.ticks, ht, hp.result, hp.opState, hp.packer, hp.cfg, ?_, ?_, fun _ => hp.read_above, hp.trace, hp.now⟩
  · intro x y d hxw hyh hx hy hd
    rw [← packedPixel_of_source (sourceOf_straight hxw hyh hx hy) hd]
    exact hp.pixelIs hbyte (by omega) hy
  · intro dx dy hx8 hy hdrop
    rw [← packedPixel_of_no_source (sourceOf_dropped hdrop)]
    exact hp.pixelIs hbyte hx8 hy

/-- Settles O26: FILL writes its byte as every packed byte. -/
theorem fillWritesWholeBuffer : Obligations.FillWritesWholeBuffer := by
  unfold Obligations.FillWritesWholeBuffer
  intro b s hr hn
  obtain ⟨t, n, ht, hp⟩ := exec_fill b hr hn
  refine ⟨t, n, hp.ticks, ht, hp.result, hp.opState, hp.packer, by simpa using hp.lastOp, fun a ha => ?_,
    fun _ => hp.read_above, hp.src, hp.trace, hp.now⟩
  rw [hp.read_below ha, packerByte_fill]

/-! ### What the packer's operations leave alone -/

/-- What the packer's operations leave alone, and the one event they record. -/
structure PackerKept (i : Instr) (s t : State) : Prop where
  pbuf : ∀ a, (s.cfg.pw.toNat + 7) / 8 * s.cfg.ph.toNat ≤ a → t.pbuf.read a = s.pbuf.read a
  src : ∀ k, t.src.read k = s.src.read k
  cfg : t.cfg = s.cfg
  build : t.build = s.build
  dcSh : t.dcSh = s.dcSh
  csSh : t.csSh = s.csSh
  rstSh : t.rstSh = s.rstSh
  fcnt : t.fcnt = s.fcnt
  elapsed : t.elapsed = s.elapsed
  samples : t.samples = s.samples
  notify : t.notify = s.notify
  faulted : t.faulted = s.faulted
  reached : t.env.reached = s.env.reached
  ops : t.env.ops = s.env.ops
  txns : t.env.txns = s.env.txns
  memReplies : t.env.memReplies = s.env.memReplies
  trace : t.env.trace = s.env.trace ++ [⟨t.env.now - 1, .done (encode i) t.result⟩]

theorem packEnd_kept (i : Instr) (s : State) : PackerKept i s (packEnd (accept (encode i) s)) := by
  constructor
  case pbuf =>
    intro a ha
    simp only [packEnd, packDone, endTick_pbuf, finish_pbuf, accept_pbuf, accept_cfg]
    rw [Memory.read_setLow, fullLen_eq, if_neg (by omega)]
  all_goals simp [packEnd, packDone]

theorem packerInvalid_kept (i : Instr) (s : State) :
    PackerKept i s (endTick (finish .invalidInput (accept (encode i) s))) := by
  constructor <;> simp

/-- Where the packer's operations can end, in a state without reads: the pack ran, or it was turned away. -/
theorem exec_packer_next {i : Instr} {s t : State} (ha : Alone s) (h : exec i s = .next t) (hop : PackerOp (encode i)) :
    t = packEnd (accept (encode i) s) ∨ t = endTick (finish .invalidInput (accept (encode i) s)) := by
  obtain ⟨hr, s1, hb, ht⟩ := exec_alone_next ha h
  rw [ht]
  have hpack := complete_pack (a := accept (encode i) s) (ha.accept _) rfl hop
  have hdone := complete_idle (s := endTick (finish .invalidInput (accept (encode i) s))) rfl
  generalize accept (encode i) s = a at *
  cases hb with
  | packFull | packSub | fill => exact .inl hpack
  | packFullInvalid | packSubInvalid => exact .inr hdone
  | cmd | data | datab | databInvalid | wait | rstp => simp [PackerOp] at hop

/-- Settles O27: the frame of both ends of a packer operation. -/
theorem packerOperationFrame : Obligations.PackerOperationFrame := by
  unfold Obligations.PackerOperationFrame
  intro i s t hi hn h
  have hop : PackerOp (encode i) := by rcases hi with ⟨w, v, rfl⟩ | ⟨w, v, rfl⟩ | ⟨b, rfl⟩ <;> simp [PackerOp]
  have hk : PackerKept i (eraseReads s) (eraseReads t) := by
    rcases exec_packer_next (alone_eraseReads hn) (exec_erased h) hop with ht | ht
    · exact ht ▸ packEnd_kept i (eraseReads s)
    · exact ht ▸ packerInvalid_kept i (eraseReads s)
  exact ⟨hk.pbuf, hk.src, hk.cfg, hk.build, hk.dcSh, hk.csSh, hk.rstSh, hk.fcnt, hk.elapsed, hk.samples, hk.notify,
    hk.faulted, hk.reached, hk.ops, hk.txns, hk.memReplies, hk.trace⟩

/-! ### FILL and then DATAB -/

/-- Settles O56: FILL wrote every byte of the range that DATAB's frame then carries. -/
theorem filledBufferIsSentUniform : Obligations.FilledBufferIsSentUniform := by
  unfold Obligations.FilledBufferIsSentUniform
  intro b s a1 a2 a3 a4 rest len hr hn hans hok hlen
  obtain ⟨hpw, hph, -, hL, -⟩ := (legalCfg_iff _ _).1 hr.1
  rw [fullLen_eq, ← hlen] at hL
  have hpos : 1 ≤ len.toNat := by
    rw [hlen]
    exact Nat.mul_pos (by omega) hph
  obtain ⟨t, n, ht, hp⟩ := exec_fill b hr hn
  have hrt : Ready t := ⟨by rw [hp.build, hp.cfg]; exact hr.1, hp.opState⟩
  have hframe : FrameOf t (.datab len 0) t.cfg.dcCmdLevel.other (List.replicate len.toNat b) := by
    refine .inr (.inr ⟨len, 0, rfl, hpos, by simpa [hp.build] using hL, rfl, by simp, fun k hk => ?_⟩)
    rw [BitVec.ofNat_eq_ofNat, BitVec.toNat_zero, Nat.zero_add, hp.read_below (hlen ▸ hk), packerByte_fill, List.getElem?_replicate, if_pos hk]
  obtain ⟨u, t1, t2, t3, t4, e1, e2, e3, e4, hu, hres, -, -, -, -, -, -, -, -, -, -, htr, hreach, -⟩ :=
    exec_frame_ok hrt (hp.resets.trans hn) hframe (hp.answers.trans hans) hok
  rw [hp.trace, List.append_assoc, List.append_assoc] at htr
  exact ⟨t, u, _, t2, t3, ht, hu, hres, by rw [hreach, hp.reached], htr, by omega, by simp [frameTrace]⟩

end Sys2Proof.Machine
end

section
/-! PROOF of O16 to O19 (41_busy_sync.md section 1): WAIT's loop, kept by every tick of it, and the run of a WAIT whose
first samples are given. -/

namespace Sys2Proof.Machine

/-! ### One tick of the loop, said once per case -/

section
variable {s : State}

theorem waitTick_ready (h0 : s.elapsed % s.cfg.pollTicks.toNat = 0) (hl : nextBusy s.env ≠ s.cfg.busyActiveLevel) :
    waitTick s = exitWait .ok (sampleBusy s) := by rw [waitTick, if_pos h0, if_pos hl]

theorem waitTick_deadline (h0 : s.elapsed % s.cfg.pollTicks.toNat = 0) (hl : nextBusy s.env = s.cfg.busyActiveLevel)
    (ht : s.cfg.timeoutTicks.toNat < s.elapsed) : waitTick s = exitWait .timeout (sampleBusy s) := by
  rw [waitTick, if_pos h0, if_neg (not_not.2 hl), if_pos ht]

theorem waitTick_again (h0 : s.elapsed % s.cfg.pollTicks.toNat = 0) (hl : nextBusy s.env = s.cfg.busyActiveLevel)
    (ht : ¬ s.cfg.timeoutTicks.toNat < s.elapsed) : waitTick s = { sampleBusy s with elapsed := s.elapsed + 1 } := by
  rw [waitTick, if_pos h0, if_neg (not_not.2 hl), if_neg ht]

theorem waitTick_between (h0 : ¬ s.elapsed % s.cfg.pollTicks.toNat = 0) :
    waitTick s = { s with elapsed := s.elapsed + 1 } := by rw [waitTick, if_neg h0]

end

/-! ### The last sample's tick -/

/-- The value ELAPSED has at the sample that times out (41_busy_sync.md R167). -/
def lastSample (c : Cfg) : Nat := (c.timeoutTicks.toNat / c.pollTicks.toNat + 1) * c.pollTicks.toNat

/-- A multiple of the poll interval within the timeout is below the last sample. -/
theorem lt_lastSample {c : Cfg} {e : Nat} (hp : 1 ≤ c.pollTicks.toNat) (h0 : e % c.pollTicks.toNat = 0)
    (ht : e ≤ c.timeoutTicks.toNat) : e < lastSample c := by
  have hd : e / c.pollTicks.toNat * c.pollTicks.toNat = e := Nat.div_mul_cancel (Nat.dvd_of_mod_eq_zero h0)
  have hm : e / c.pollTicks.toNat * c.pollTicks.toNat ≤ c.timeoutTicks.toNat / c.pollTicks.toNat * c.pollTicks.toNat :=
    Nat.mul_le_mul_right _ (Nat.div_le_div_right ht)
  rw [lastSample, Nat.add_mul]
  omega

theorem lastSample_mod (c : Cfg) : lastSample c % c.pollTicks.toNat = 0 := Nat.mul_mod_left ..

theorem timeout_lt_lastSample {c : Cfg} (hp : 1 ≤ c.pollTicks.toNat) : c.timeoutTicks.toNat < lastSample c := by
  have := Nat.div_add_mod c.timeoutTicks.toNat c.pollTicks.toNat
  have := Nat.mod_lt c.timeoutTicks.toNat hp
  rw [lastSample, Nat.add_mul, Nat.mul_comm]
  omega

theorem lastSample_le (c : Cfg) : lastSample c ≤ c.timeoutTicks.toNat + c.pollTicks.toNat := by
  have := Nat.div_mul_le_self c.timeoutTicks.toNat c.pollTicks.toNat
  rw [lastSample, Nat.add_mul]
  omega

/-- A multiple of the poll interval past the timeout, and no later than the last sample, is the last sample. -/
theorem eq_lastSample {c : Cfg} {e : Nat} (h0 : e % c.pollTicks.toNat = 0) (ht : c.timeoutTicks.toNat < e)
    (hle : e ≤ lastSample c) : e = lastSample c := by
  refine hle.antisymm ?_
  have hd : e / c.pollTicks.toNat * c.pollTicks.toNat = e := Nat.div_mul_cancel (Nat.dvd_of_mod_eq_zero h0)
  have hlt : c.timeoutTicks.toNat / c.pollTicks.toNat < e / c.pollTicks.toNat :=
    Nat.lt_of_mul_lt_mul_right (a := c.pollTicks.toNat)
      (by rw [hd]; exact (Nat.div_mul_le_self ..).trans_lt ht)
  calc lastSample c ≤ e / c.pollTicks.toNat * c.pollTicks.toNat := Nat.mul_le_mul_right _ hlt
    _ = e := hd

/-! ### The loop -/

/-- What WAIT leaves alone, in progress and after it. -/
structure WaitKept (a v : State) : Prop where
  cfg : v.cfg = a.cfg
  build : v.build = a.build
  dcSh : v.dcSh = a.dcSh
  csSh : v.csSh = a.csSh
  rstSh : v.rstSh = a.rstSh
  fcnt : v.fcnt = a.fcnt
  pbuf : v.pbuf = a.pbuf
  src : v.src = a.src
  faulted : v.faulted = a.faulted
  reached : v.env.reached = a.env.reached
  ops : v.env.ops = a.env.ops
  txns : v.env.txns = a.env.txns
  memReplies : v.env.memReplies = a.env.memReplies

/-- An event of a sample of BUSY. -/
def IsSample (e : Stamped) : Prop := ∃ n l, e = ⟨n, .readPin l⟩

/-- A tick of WAIT's loop begins in state `v`, the operation having been accepted in state `a`. -/
structure WaitLoop (a v : State) : Prop where
  alone : Alone v
  opState : v.opState = .busy
  curOp : v.curOp = encode .wait
  kept : WaitKept a v
  notify : v.notify = (a.cfg.notifyEn || a.notify)
  now : v.env.now = a.env.now + v.elapsed
  elapsed : v.elapsed ≤ lastSample a.cfg
  trace : ∃ samples, v.env.trace = a.env.trace ++ notifyEvent a.cfg a.env.now true ++ samples ∧ ∀ e ∈ samples, IsSample e

/-- The state after WAIT's exit tick. -/
structure WaitEnd (a t : State) : Prop where
  kept : WaitKept a t
  opState : t.opState = .idle
  result : t.result = .ok ∨ t.result = .timeout ∧ t.elapsed = lastSample a.cfg
  notify : t.notify = (!a.cfg.notifyEn && a.notify)
  now : t.env.now = a.env.now + t.elapsed + 1
  elapsed : t.elapsed ≤ lastSample a.cfg
  poll : t.elapsed % a.cfg.pollTicks.toNat = 0
  trace : ∃ samples, t.env.trace = a.env.trace ++ (notifyEvent a.cfg a.env.now true ++ samples ++
    notifyEvent a.cfg (t.env.now - 1) false ++ [⟨t.env.now - 1, .done (encode .wait) t.result⟩]) ∧
      ∀ e ∈ samples, IsSample e

section
variable {a v : State}

/-- WAIT enters its loop. -/
theorem waitLoop_enterWait {s : State} (ha : Alone s) :
    WaitLoop (accept (encode .wait) s) (enterWait (accept (encode .wait) s)) := by
  constructor
  case alone => exact ⟨by simpa using ha.resets, by simpa using ha.reads⟩
  case kept => constructor <;> simp
  case trace => exact ⟨[], by simp, by simp⟩
  all_goals simp

/-- The samples so far and the next one. -/
theorem WaitLoop.trace_sampleBusy (h : WaitLoop a v) :
    ∃ samples, (sampleBusy v).env.trace = a.env.trace ++ notifyEvent a.cfg a.env.now true ++ samples ∧
      ∀ e ∈ samples, IsSample e := by
  obtain ⟨samples, ht, hs⟩ := h.trace
  refine ⟨samples ++ [⟨v.env.now, .readPin (nextBusy v.env)⟩], by rw [sampleBusy_trace, ht, List.append_assoc], fun e he => ?_⟩
  rcases List.mem_append.1 he with he | he
  · exact hs e he
  · exact ⟨_, _, List.mem_singleton.1 he⟩

theorem WaitKept.sampleBusy (h : WaitKept a v) : WaitKept a (sampleBusy v) := by
  obtain ⟨h1, h2, h3, h4, h5, h6, h7, h8, h9, h10, h11, h12, h13⟩ := h
  constructor <;> simpa

theorem WaitKept.exitWait (h : WaitKept a v) (code : Result) : WaitKept a (endTick (exitWait code v)) := by
  obtain ⟨h1, h2, h3, h4, h5, h6, h7, h8, h9, h10, h11, h12, h13⟩ := h
  constructor <;> simpa

/-- The loop exits in a sample tick. -/
theorem WaitLoop.exit (h : WaitLoop a v) (h0 : v.elapsed % v.cfg.pollTicks.toNat = 0) (code : Result)
    (hc : code = .ok ∨ code = .timeout ∧ v.elapsed = lastSample a.cfg) :
    WaitEnd a (endTick (exitWait code (sampleBusy v))) := by
  obtain ⟨samples, ht, hs⟩ := h.trace_sampleBusy
  have hcfg := h.kept.cfg
  constructor
  case kept => exact h.kept.sampleBusy.exitWait code
  case trace => exact ⟨samples, by simp [-sampleBusy_trace, ht, hcfg, h.curOp], hs⟩
  case poll => simpa [← hcfg] using h0
  case now => simp [h.now]
  case notify => cases hn : a.cfg.notifyEn <;> simp [hcfg, hn, h.notify]
  case elapsed => simpa using h.elapsed
  all_goals simp [hc]

/-- The loop goes on with the same samples or one more. -/
theorem WaitLoop.again (h : WaitLoop a v) {u : State} (hu : u = v ∨ u = sampleBusy v)
    (he : v.elapsed + 1 ≤ lastSample a.cfg) : WaitLoop a (endTick { u with elapsed := v.elapsed + 1 }) := by
  have htrace : ∃ samples, u.env.trace = a.env.trace ++ notifyEvent a.cfg a.env.now true ++ samples ∧
      ∀ e ∈ samples, IsSample e := by
    rcases hu with rfl | rfl
    · exact h.trace
    · exact h.trace_sampleBusy
  have hkept : WaitKept a u := by
    rcases hu with rfl | rfl
    · exact h.kept
    · exact h.kept.sampleBusy
  have hsame : u.opState = v.opState ∧ u.curOp = v.curOp ∧ u.notify = v.notify ∧ u.env.now = v.env.now ∧
      u.env.resets = v.env.resets ∧ u.env.regReads = v.env.regReads := by
    rcases hu with rfl | rfl <;> simp
  obtain ⟨h1, h2, h3, h4, h5, h6⟩ := hsame
  exact ⟨⟨h5.trans h.alone.resets, h6.trans h.alone.reads⟩, h1.trans h.opState, h2.trans h.curOp,
    ⟨hkept.cfg, hkept.build, hkept.dcSh, hkept.csSh, hkept.rstSh, hkept.fcnt, hkept.pbuf, hkept.src, hkept.faulted,
      hkept.reached, hkept.ops, hkept.txns, hkept.memReplies⟩, h3.trans h.notify,
    by simp [h4, h.now, Nat.add_assoc], he, htrace⟩

/-- One tick of the loop. -/
theorem WaitLoop.waitTick (h : WaitLoop a v) (hp : 1 ≤ a.cfg.pollTicks.toNat) :
    WaitLoop a (endTick (waitTick v)) ∨ WaitEnd a (endTick (waitTick v)) := by
  have hcfg := h.kept.cfg
  by_cases h0 : v.elapsed % v.cfg.pollTicks.toNat = 0
  · by_cases hl : nextBusy v.env = v.cfg.busyActiveLevel
    · by_cases ht : v.cfg.timeoutTicks.toNat < v.elapsed
      · rw [waitTick_deadline h0 hl ht]
        rw [hcfg] at ht
        exact .inr (h.exit h0 _ (.inr ⟨rfl, eq_lastSample (hcfg ▸ h0) ht h.elapsed⟩))
      · rw [waitTick_again h0 hl ht]
        rw [hcfg] at ht
        exact .inl (h.again (.inr rfl) (lt_lastSample hp (hcfg ▸ h0) (not_lt.1 ht)))
    · rw [waitTick_ready h0 hl]
      exact .inr (h.exit h0 _ (.inl rfl))
  · rw [waitTick_between h0]
    refine .inl (h.again (.inl rfl) (lt_of_le_of_ne h.elapsed fun he => h0 ?_))
    rw [he, hcfg, lastSample_mod]

end

/-- Every WAIT that no reset disturbs ends as its loop does. -/
theorem exec_wait_alone {s t : State} (ha : Alone s) (h : exec .wait s = .next t) :
    WaitEnd (accept (encode .wait) s) t := by
  obtain ⟨-, -, hp, -⟩ := (legalCfg_iff _ _).1 (exec_alone_next ha h).1.1
  have hend : WaitLoop (accept (encode .wait) s) t ∨ WaitEnd (accept (encode .wait) s) t := by
    refine exec_keeps (P := fun u => WaitLoop (accept (encode .wait) s) u ∨ WaitEnd (accept (encode .wait) s) u) h (fun s1 hs => ?_) (fun u hb hu => ?_)
    · rw [readPort_none ha.reads] at hs
      cases hs
      exact (waitLoop_enterWait ha).waitTick hp
    · have hu := hu.resolve_right fun hw => by simp [hw.opState] at hb
      rw [hu.alone.tick, engineTick_wait (by simp [hu.curOp])]
      exact hu.waitTick hp
  exact hend.resolve_left fun hw => absurd hw.opState (by simp [exec_idle h])

/-- The same with register reads scheduled. -/
theorem exec_wait {s t : State} (hn : NoReset s) (h : exec .wait s = .next t) :
    WaitEnd (accept (encode .wait) (eraseReads s)) (eraseReads t) :=
  exec_wait_alone (alone_eraseReads hn) (exec_erased h)

theorem filter_isNotify_of_samples {l : List Stamped} (h : ∀ e ∈ l, IsSample e) : l.filter isNotify = [] :=
  List.filter_eq_nil_iff.2 fun e he => by obtain ⟨n, x, rfl⟩ := h e he; simp [isNotify]

theorem filter_isRequest_of_samples {l : List Stamped} (h : ∀ e ∈ l, IsSample e) : l.filter isRequest = [] :=
  List.filter_eq_nil_iff.2 fun e he => by obtain ⟨n, x, rfl⟩ := h e he; simp [isRequest]

theorem filter_isNotify_notifyEvent (c : Cfg) (n : Nat) (b : Bool) :
    (notifyEvent c n b).filter isNotify = notifyEvent c n b := by
  unfold notifyEvent
  split <;> rfl

theorem filter_isRequest_notifyEvent (c : Cfg) (n : Nat) (b : Bool) : (notifyEvent c n b).filter isRequest = [] := by
  unfold notifyEvent
  split <;> rfl

/-- Settles O18: the loop notifies nothing between its entry and its exit. -/
theorem waitNotifiesTrueThenFalse : Obligations.WaitNotifiesTrueThenFalse := by
  unfold Obligations.WaitNotifiesTrueThenFalse
  intro s t hn h
  have hw := exec_wait hn h
  obtain ⟨samples, ht, hs⟩ := hw.trace
  refine ⟨_, ht, ?_, fun hc => ?_, fun hc => ?_⟩
  · simp only [List.filter_append, filter_isNotify_of_samples hs, filter_isNotify_notifyEvent, List.append_nil]
    exact List.append_nil _
  · exact hw.notify.trans (by simp [eraseReads, hc])
  · exact hw.notify.trans (by simp [eraseReads, hc])

/-- Settles O19: the end of the loop. -/
theorem waitFrameAndResults : Obligations.WaitFrameAndResults := by
  unfold Obligations.WaitFrameAndResults
  intro s t hn h
  have hw := exec_wait hn h
  obtain ⟨samples, ht, hs⟩ := hw.trace
  have hk := hw.kept
  refine ⟨hw.result.imp_right And.left, ⟨_, ht, ?_⟩, hk.dcSh, hk.csSh, hk.rstSh, hk.fcnt,
    fun a => congrArg (Memory.read · a) hk.pbuf, fun k => congrArg (Memory.read · k) hk.src, hk.cfg, hk.build, hk.faulted,
    hk.reached, hk.ops, hk.txns, hk.memReplies⟩
  simp only [List.filter_append, filter_isRequest_of_samples hs, filter_isRequest_notifyEvent, List.append_nil]
  rfl

/-! ### The run of a WAIT whose samples are given -/

theorem samplesOf_snoc (t p k : Nat) (l : Level) :
    samplesOf t p (k + 1) l = samplesOf t p k l ++ [⟨t + k * p, .readPin l⟩] := by
  simp [samplesOf, List.range_succ]

/-- The sample after `k` busy ones exits: it is not busy, or it is past the timeout. -/
theorem waitTick_sampled {s : State} {k : Nat} {code : Result} {l : Level} {rest : List Level} (he : s.elapsed = 0)
    (hx : code = .ok ∧ l ≠ s.cfg.busyActiveLevel ∨
      code = .timeout ∧ l = s.cfg.busyActiveLevel ∧ s.cfg.timeoutTicks.toNat < k * s.cfg.pollTicks.toNat) :
    waitTick (sampled k s.cfg.busyActiveLevel (l :: rest) s) =
      exitWait code (sampleBusy (sampled k s.cfg.busyActiveLevel (l :: rest) s)) := by
  have h0 : (sampled k s.cfg.busyActiveLevel (l :: rest) s).elapsed %
      (sampled k s.cfg.busyActiveLevel (l :: rest) s).cfg.pollTicks.toNat = 0 := by simp [he]
  rcases hx with ⟨rfl, hl⟩ | ⟨rfl, hl, ht⟩
  · exact waitTick_ready h0 hl
  · exact waitTick_deadline h0 hl (by simpa [he] using ht)

/-- A WAIT that exits at the sample after `k` busy ones. -/
theorem exec_wait_sampled {s : State} {k : Nat} {code : Result} {l : Level} {rest : List Level} (hr : Ready s)
    (hn : NoReset s) (hl : s.env.busyLevels = List.replicate k s.cfg.busyActiveLevel ++ l :: rest)
    (ht : k = 0 ∨ (k - 1) * s.cfg.pollTicks.toNat ≤ s.cfg.timeoutTicks.toNat)
    (hx : code = .ok ∧ l ≠ s.cfg.busyActiveLevel ∨
      code = .timeout ∧ l = s.cfg.busyActiveLevel ∧ s.cfg.timeoutTicks.toNat < k * s.cfg.pollTicks.toNat) :
    ∃ t tx, tx = s.env.now + k * s.cfg.pollTicks.toNat ∧ exec .wait s = .next t ∧ t.result = code ∧ t.opState = .idle ∧
      t.sync = .sIdle ∧ t.elapsed = k * s.cfg.pollTicks.toNat ∧ t.samples = BitVec.ofNat 32 (k + 1) ∧
      t.curOp = 0x40000000 ∧ t.lastOp = 4 ∧
      t.env.trace = s.env.trace ++ notifyEvent s.cfg s.env.now true ++
        samplesOf s.env.now s.cfg.pollTicks.toNat k s.cfg.busyActiveLevel ++ [⟨tx, .readPin l⟩] ++
        notifyEvent s.cfg tx false ++ [⟨tx, .done 0x40000000 code⟩] ∧
      t.env.now = tx + 1 := by
  obtain ⟨-, -, hp, -⟩ := (legalCfg_iff _ _).1 hr.1
  have henc : encode .wait = 0x40000000 := by decide
  have hrun : ∀ a, a = enterWait (accept (encode .wait) (eraseReads s)) → exec .wait (eraseReads s) =
      .next (endTick (exitWait code (sampleBusy (sampled k a.cfg.busyActiveLevel (l :: rest) a)))) := by
    rintro a rfl
    rw [exec_alone (s := eraseReads s) hr (alone_eraseReads hn) .wait]
    refine congrArg Host.Outcome.next (complete_waitTick k code ?_ (by simp) (by simp) ?_ (by simp) ?_ ?_ ?_)
    · exact ⟨by simpa using hn, by simp [eraseReads]⟩
    · simpa using hp
    · simpa using hl
    · simpa using ht
    · exact waitTick_sampled (by simp) (by simpa using hx)
  obtain ⟨reads, replies, h⟩ := exec_of_erased (hrun _ rfl)
  rw [← henc]
  refine ⟨_, _, rfl, h, ?_⟩
  simp [withReads, nextBusy, BitVec.ofNat_add]

/-- Settles O16: the sample that is not busy ends the run; and the loop ends no later than its last sample. -/
theorem waitEndsAtReadySample : Obligations.WaitEndsAtReadySample := by
  unfold Obligations.WaitEndsAtReadySample
  refine ⟨fun s k l rest hr hn hl hne ht => exec_wait_sampled hr hn hl ht (.inl ⟨rfl, hne⟩), fun s t hn h _ => ?_⟩
  have hw := exec_wait hn h
  have hnow : t.env.now = s.env.now + t.elapsed + 1 := hw.now
  have hle : t.elapsed ≤ lastSample s.cfg := hw.elapsed
  rw [hnow]
  exact Nat.add_le_add_right (Nat.add_le_add_left hle _) 1

/-- Settles O17: the first sample past the timeout is number floor(TIMEOUT_TICKS / POLL_TICKS) + 1. -/
theorem waitTimesOutWithinOnePoll : Obligations.WaitTimesOutWithinOnePoll := by
  unfold Obligations.WaitTimesOutWithinOnePoll
  intro s rest hr hn hl
  obtain ⟨-, -, hp, -⟩ := (legalCfg_iff _ _).1 hr.1
  rw [List.replicate_succ', List.append_assoc, List.singleton_append] at hl
  obtain ⟨t, tx, htx, h, hres, hidle, -, he, hsamples, -, -, htr, hnow⟩ :=
    exec_wait_sampled hr hn hl (.inr (Nat.div_mul_le_self ..)) (.inr ⟨rfl, rfl, timeout_lt_lastSample hp⟩)
  refine ⟨t, _, tx, rfl, htx, h, hres, hidle, he, hsamples, ?_, ?_, ?_, hnow⟩
  · exact he ▸ timeout_lt_lastSample hp
  · exact he ▸ lastSample_le s.cfg
  · rw [htr, samplesOf_snoc _ _ (s.cfg.timeoutTicks.toNat / s.cfg.pollTicks.toNat + 1), ← htx]
    simp only [List.append_assoc]

end Sys2Proof.Machine
end

section
/-! PROOF of O42 (70_reset_and_hazards.md section 3): how long each end of an operation took. -/

namespace Sys2Proof.Machine

theorem one_le_latency (a : Answer) : 1 ≤ latency a := Nat.le_add_left 1 _

/-- The end of a frame: four requests returned, or the first to fail did. -/
theorem frameEnd_duration (l : Level) (bs : List Byte) (a : State) :
    (frameEnd l bs a).result = .ok ∧ a.env.now + 4 + 1 ≤ (frameEnd l bs a).env.now ∨
      (frameEnd l bs a).result = .transportFailure ∧ a.env.now + 1 < (frameEnd l bs a).env.now := by
  have h1 := one_le_latency (nextAnswer a.env)
  have h2 := one_le_latency (nextAnswer (dcSet l a).env)
  have h3 := one_le_latency (nextAnswer (csSet l a).env)
  have h4 := one_le_latency (nextAnswer (transmitted l bs a).env)
  have n1 : (dcSet l a).env.now = a.env.now + latency (nextAnswer a.env) := by simp [dcSet]
  have n2 : (csSet l a).env.now = (dcSet l a).env.now + latency (nextAnswer (dcSet l a).env) := by simp [csSet]
  have n3 : (transmitted l bs a).env.now = (csSet l a).env.now + latency (nextAnswer (csSet l a).env) := by
    simp [transmitted]
  have n4 : (csCleared l bs a).env.now = (transmitted l bs a).env.now + latency (nextAnswer (transmitted l bs a).env) := by
    simp [csCleared]
  unfold frameEnd
  split_ifs
  · refine .inl ⟨rfl, ?_⟩
    simp only [endTick_now, finish_now]
    omega
  all_goals
    refine .inr ⟨rfl, ?_⟩
    simp only [endTick_now, finish_now]
    omega

/-- The end of the waveform: three requests returned and three holds passed, or the first request to fail returned. -/
theorem pulseEnd_duration (a : State) :
    (pulseEnd a).result = .ok ∧
        a.env.now + 3 + 2 * a.cfg.rstHoldTicks.toNat + a.cfg.rstDelayTicks.toNat + 1 ≤ (pulseEnd a).env.now ∨
      (pulseEnd a).result = .transportFailure ∧ a.env.now + 1 < (pulseEnd a).env.now := by
  have h1 := one_le_latency (nextAnswer a.env)
  have h2 := one_le_latency (nextAnswer (firstHeld a).env)
  have h3 := one_le_latency (nextAnswer (delayHeld a).env)
  have n1 : (firstEdge a).env.now = a.env.now + latency (nextAnswer a.env) := by simp [firstEdge]
  have m1 : (firstHeld a).env.now = (firstEdge a).env.now + a.cfg.rstHoldTicks.toNat := by
    simp [firstHeld, firstEdge, holdTicks]
  have n2 : (secondEdge a).env.now = (firstHeld a).env.now + latency (nextAnswer (firstHeld a).env) := by
    simp [secondEdge]
  have m2 : (delayHeld a).env.now = (secondEdge a).env.now + a.cfg.rstDelayTicks.toNat := by
    simp [delayHeld, secondEdge, firstHeld, firstEdge, holdTicks]
  have n3 : (thirdEdge a).env.now = (delayHeld a).env.now + latency (nextAnswer (delayHeld a).env) := by
    simp [thirdEdge]
  have m3 : (secondHeld a).env.now = (thirdEdge a).env.now + a.cfg.rstHoldTicks.toNat := by
    simp [secondHeld, thirdEdge, delayHeld, secondEdge, firstHeld, firstEdge, holdTicks]
  unfold pulseEnd
  split_ifs
  · refine .inl ⟨rfl, ?_⟩
    simp only [endTick_now, finish_now]
    omega
  all_goals
    refine .inr ⟨rfl, ?_⟩
    simp only [endTick_now, finish_now]
    omega

/-- How long an operation took, from acceptance in state `s` to its end in state `t`, `least` being how long its success
takes at least; WAIT, which can time out, is apart. -/
structure TookAtLeast (least : Nat) (s t : State) : Prop where
  invalidInput : t.result = .invalidInput → t.env.now = s.env.now + 1
  no_timeout : t.result ≠ .timeout
  transportFailure : t.result = .transportFailure → s.env.now + 1 < t.env.now
  ok : t.result = .ok → s.env.now + least + 1 ≤ t.env.now

section
variable {s t : State} {least : Nat}

theorem tookAtLeast_of_ok (hr : t.result = .ok) (h : s.env.now + least + 1 ≤ t.env.now) : TookAtLeast least s t :=
  ⟨fun hc => by simp [hr] at hc, by simp [hr], fun hc => by simp [hr] at hc, fun _ => h⟩

theorem tookAtLeast_of_transportFailure (hr : t.result = .transportFailure) (h : s.env.now + 1 < t.env.now) :
    TookAtLeast least s t :=
  ⟨fun hc => by simp [hr] at hc, by simp [hr], fun _ => h, fun hc => by simp [hr] at hc⟩

theorem tookAtLeast_of_invalidInput (hr : t.result = .invalidInput) (h : t.env.now = s.env.now + 1) :
    TookAtLeast least s t :=
  ⟨fun _ => h, by simp [hr], fun hc => by simp [hr] at hc, fun hc => by simp [hr] at hc⟩

end

section
variable {i : Instr} {s t : State}

/-- CMD, DATA and DATAB. -/
theorem exec_frame_duration (hn : NoReset s) (h : exec i s = .next t) (hf : FramerOp (encode i)) (hi : i ≠ .rstp) :
    TookAtLeast 4 (eraseReads s) (eraseReads t) := by
  rcases exec_framer_next (alone_eraseReads hn) (exec_erased h) hf with ⟨-, l, bs, ht⟩ | ⟨hc, -⟩ | ⟨-, ht⟩
  · rw [ht]
    rcases frameEnd_duration l bs (accept (encode i) (eraseReads s)) with ⟨hr, hd⟩ | ⟨hr, hd⟩
    · exact tookAtLeast_of_ok hr hd
    · exact tookAtLeast_of_transportFailure hr hd
  · exact absurd hc hi
  · rw [ht]
    exact tookAtLeast_of_invalidInput rfl rfl

theorem exec_rstp_duration (hn : NoReset s) (h : exec .rstp s = .next t) :
    TookAtLeast (3 + 2 * s.cfg.rstHoldTicks.toNat + s.cfg.rstDelayTicks.toNat) (eraseReads s) (eraseReads t) := by
  rcases exec_framer_next (alone_eraseReads hn) (exec_erased h) (by simp [FramerOp]) with ⟨hc, -⟩ | ⟨-, ht⟩ | ⟨hc, -⟩
  · exact absurd rfl hc
  · rw [ht]
    rcases pulseEnd_duration (accept (encode .rstp) (eraseReads s)) with ⟨hr, hd⟩ | ⟨hr, hd⟩
    · exact tookAtLeast_of_ok hr (by simpa [← Nat.add_assoc] using hd)
    · exact tookAtLeast_of_transportFailure hr hd
  · exact absurd rfl hc

/-- PACK.FULL, PACK.SUB and FILL. -/
theorem exec_pack_duration (hn : NoReset s) (h : exec i s = .next t) (hop : PackerOp (encode i)) :
    TookAtLeast 1 (eraseReads s) (eraseReads t) := by
  rcases exec_packer_next (alone_eraseReads hn) (exec_erased h) hop with ht | ht
  · rw [ht]
    exact tookAtLeast_of_ok rfl (by simp [packEnd, packDone])
  · rw [ht]
    exact tookAtLeast_of_invalidInput rfl rfl

end

/-- Settles O42: the durations of the ends, engine by engine. -/
theorem operationDurations : Obligations.OperationDurations := by
  unfold Obligations.OperationDurations
  intro i s t hn h
  cases i with
  | cmd | data | datab =>
    have hd := exec_frame_duration hn h (by simp [FramerOp]) (by simp)
    exact ⟨hd.invalidInput, fun hc => absurd hc hd.no_timeout, hd.transportFailure, hd.ok⟩
  | rstp =>
    have hd := exec_rstp_duration hn h
    refine ⟨hd.invalidInput, fun hc => absurd hc hd.no_timeout, hd.transportFailure, fun hok => ?_⟩
    simpa [← Nat.add_assoc] using hd.ok hok
  | packFull | packSub | fill =>
    have hd := exec_pack_duration hn h (by simp [PackerOp])
    exact ⟨hd.invalidInput, fun hc => absurd hc hd.no_timeout, hd.transportFailure, hd.ok⟩
  | wait =>
    have hw := exec_wait hn h
    have hnow : t.env.now = s.env.now + t.elapsed + 1 := hw.now
    have hres : t.result = .ok ∨ t.result = .timeout ∧ t.elapsed = lastSample s.cfg := hw.result
    have hpoll : t.elapsed % s.cfg.pollTicks.toNat = 0 := hw.poll
    refine ⟨fun hc => ?_, fun hc => ?_, fun hc => ?_, fun _ => ⟨t.elapsed / s.cfg.pollTicks.toNat, ?_⟩⟩
    · simp [hc] at hres
    · rw [hnow, (hres.resolve_left (by simp [hc])).2]
      rfl
    · simp [hc] at hres
    · rw [hnow, Nat.div_mul_cancel (Nat.dvd_of_mod_eq_zero hpoll)]

end Sys2Proof.Machine
end
